-- ==== Sys2Proof/Word.lean ====
section
/-! DEFINITION. The word types of bcd-mae: the 32-bit register word and the 12-bit byte offset of a bus
transfer (spec/20_memory.md R61, R62). -/

namespace Sys2Proof

/-- A 32-bit register or command word; bit 0 is the least significant (R11, R62). -/
abbrev Word := BitVec 32

/-- The byte offset of a transfer within the 4096-byte block, `paddr[11:0]` (R61, R63). -/
abbrev Offset := BitVec 12

end Sys2Proof
end

