-- ==== Sys2Proof/Syntax.lean ====
section
/-! DEFINITION. The commands of bcd-mae, one constructor per row of spec/opcode_table.json
(spec/30_encoding.md R90). -/

namespace Sys2Proof

/-- A command. RND of MRTEST is the only immediate (R88); every other operand is an implicit register (R89). -/
inductive Instr where
  /-- modular product (R110) -/
  | modmul
  /-- modular exponentiation (R112) -/
  | modexp
  /-- modular inverse (R116) -/
  | modinv
  /-- the prefilter alone (R131) -/
  | trialdiv
  /-- one Miller-Rabin round with the witness in X (R132) -/
  | mrround
  /-- the whole test with `rounds` drawn witnesses (R133) -/
  | mrtest (rounds : Nat)
  deriving DecidableEq, Repr

/-- The textual form of a command (R95). -/
def Instr.text : Instr → String
  | .modmul => "MODMUL"
  | .modexp => "MODEXP"
  | .modinv => "MODINV"
  | .trialdiv => "TRIALDIV"
  | .mrround => "MRROUND"
  | .mrtest rounds => "MRTEST " ++ toString rounds

end Sys2Proof
end

