-- ==== Sys2Proof/WellFormed.lean ====
section
/-! DEFINITION. Which commands have a command word: the one check is that RND fits its 8-bit field
(spec/30_encoding.md R87, R88). -/

namespace Sys2Proof

/-- Whether the command has an encoding. -/
def Instr.wellFormed : Instr → Bool
  | .modmul => true
  | .modexp => true
  | .modinv => true
  | .trialdiv => true
  | .mrround => true
  | .mrtest rounds => decide (rounds ≤ 255)

/-- The proposition form of `Instr.wellFormed`. -/
abbrev Instr.WellFormed (i : Instr) : Prop := i.wellFormed = true

end Sys2Proof
end

