-- ==== Sys2Proof/Decode.lean ====
section
/-! DEFINITION. Decoding and encoding of the command word (spec/30_encoding.md R86 to R95). Decoding is total: a word
that is not legal is rejected by the name of the rule it breaks, and the engine then completes it with
ILLEGAL_COMMAND (R92, R93). -/

namespace Sys2Proof

/-- Why a word is not legal (R93). -/
inductive DecodeError where
  /-- RSV, bits [31:16], is not 0 -/
  | reservedBits
  /-- OP is 0x00 or in [0x07, 0xFF] -/
  | reservedOpcode
  /-- RND is not 0 with OP in [0x01, 0x05] -/
  | roundsNotZero
  deriving DecidableEq, Repr

/-- OP, bits [7:0] (R87). -/
def opField (c : Word) : BitVec 8 := c.extractLsb' 0 8

/-- RND, bits [15:8] (R87). -/
def rndField (c : Word) : BitVec 8 := c.extractLsb' 8 8

/-- RSV, bits [31:16] (R87). -/
def rsvField (c : Word) : BitVec 16 := c.extractLsb' 16 16

/-- A command whose RND field must be 0. -/
def decodeNoRounds (c : Word) (i : Instr) : Except DecodeError Instr :=
  if rndField c = 0 then .ok i else .error .roundsNotZero

/-- The decode function (R92). -/
def decode (c : Word) : Except DecodeError Instr :=
  if rsvField c ≠ 0 then .error .reservedBits
  else if opField c = 0x01 then decodeNoRounds c .modmul
  else if opField c = 0x02 then decodeNoRounds c .modexp
  else if opField c = 0x03 then decodeNoRounds c .modinv
  else if opField c = 0x04 then decodeNoRounds c .trialdiv
  else if opField c = 0x05 then decodeNoRounds c .mrround
  else if opField c = 0x06 then .ok (.mrtest (rndField c).toNat)
  else .error .reservedOpcode

/-- The predicate of R91: the words that are commands. -/
abbrev Legal (c : Word) : Prop :=
  rsvField c = 0 ∧ (0x01 ≤ (opField c).toNat ∧ (opField c).toNat ≤ 0x06) ∧
    (opField c = 0x06 ∨ rndField c = 0)

/-- The command word of a command: `{RSV = 0, RND, OP}` (R87, R90, R95). -/
def encode : Instr → Word
  | .modmul => 0x00000001
  | .modexp => 0x00000002
  | .modinv => 0x00000003
  | .trialdiv => 0x00000004
  | .mrround => 0x00000005
  | .mrtest rounds => (0#16 ++ BitVec.ofNat 8 rounds ++ 0x06#8 : BitVec 32)

/-- One row of the opcode map (R90). -/
structure OpcodeRow where
  mnemonic : String
  pattern : Word
  mask : Word
  deriving DecidableEq, Repr

/-- The opcode map (R90). -/
def opcodeMap : List OpcodeRow :=
  [⟨"MODMUL", 0x00000001, 0xFFFFFFFF⟩, ⟨"MODEXP", 0x00000002, 0xFFFFFFFF⟩, ⟨"MODINV", 0x00000003, 0xFFFFFFFF⟩,
   ⟨"TRIALDIV", 0x00000004, 0xFFFFFFFF⟩, ⟨"MRROUND", 0x00000005, 0xFFFFFFFF⟩, ⟨"MRTEST", 0x00000006, 0xFFFF00FF⟩]

/-- Whether a word matches a row of the opcode map. -/
def OpcodeRow.hits (row : OpcodeRow) (c : Word) : Bool := c &&& row.mask == row.pattern

/-- The command read from a table word of `nbits` bits; the bits above `nbits` are 0, and a command word has 32. -/
def decodeTableWord (nbits w : Nat) : Option Instr :=
  match decode (BitVec.ofNat 32 (w % 2 ^ nbits)) with
  | .ok i => some i
  | .error _ => none

end Sys2Proof
end

