-- ==== Sys2Proof/Config.lean ====
section
/-! DEFINITION. What an instance or its platform fixes: the width parameter's admissible values, the block's base
address, and the fixed constants of spec/00_scope.md R10. The width of one machine is held in `State.nwords`, which
no step changes (log entry 1). -/

namespace Sys2Proof

/-- The admissible operand widths (R6): `W = 32 * nwords` with `64 <= W <= 4096`. -/
abbrev Config.ValidNwords (nwords : Nat) : Prop := 2 ≤ nwords ∧ nwords ≤ 128

/-- NWORDS of the spec's reference instance, `W = 1024` (R6). DESIGN CHOICE (log entry 1): the width of
`State.reset`. -/
def Config.referenceNwords : Nat := 32

/-- Which 4096-byte page the platform gives the block. OPEN in the spec (R7): no body, so no proof sees a value
(log entry 4). -/
opaque Config.basePage : Nat

/-- `BASE`, the bus address of offset 0: a multiple of 4096 (R7). -/
def Config.base : Nat := 4096 * Config.basePage

/-- The platform's address decoder (R63): the offset an address has within the block, or `none` where the platform
does not select the block. -/
def Config.paddrOf (addr : Nat) : Option Offset :=
  if Config.base ≤ addr ∧ addr < Config.base + 4096 then some (BitVec.ofNat 12 (addr - Config.base)) else none

/-- The value of the ID register: the ASCII bytes "MAE1" (R31). -/
def Config.idWord : Word := 0x4D414531

/-- The small-prime set `SP` (R126). -/
def Config.smallPrimes : List Nat := [2, 3, 5, 7, 11, 13, 17, 19, 23, 29]

end Sys2Proof
end

