-- ==== Sys2Proof/Machine/State.lean ====
section
/-! DEFINITION. The state of bcd-mae as plain data (spec/10_state.md), the events of its agents (R21, R79), and the
state after reset (R51). -/

namespace Sys2Proof.Machine

/-- The sequencer state (R29). -/
inductive Seq where
  /-- no command running -/
  | idle
  /-- a command is running; its word is in CMD -/
  | busy
  deriving DecidableEq, Repr

/-- The hidden working state that outlives one engine step: how far a running MRTEST has come while it waits for
random words (R47, R137). Log entry 6. -/
structure Work where
  /-- rounds of the running MRTEST that have passed -/
  passed : Nat
  /-- words already taken for the witness attempt in progress, oldest first -/
  buffer : List Word
  deriving DecidableEq, Repr

/-- No hidden value held (R47: reset and completion discard it). -/
def Work.fresh : Work := { passed := 0, buffer := [] }

/-- One bus transfer in its access phase (R61, R62). -/
inductive Transfer where
  /-- a read at `off`; `pstrb` is ignored for a read (R65) -/
  | read (off : Offset)
  /-- a write of `data` at `off` with byte strobes `strb` -/
  | write (off : Offset) (data : Word) (strb : BitVec 4)
  deriving DecidableEq, Repr

/-- What a transfer answers on the bus (R62, R64). -/
inductive Response where
  /-- a read that returned `data` on `prdata` with `pslverr = 0` -/
  | readData (off : Offset) (data : Word)
  /-- a write answered with `pslverr = 0` -/
  | writeDone (off : Offset)
  /-- a write during reset: `prdata = 0`, `pslverr = 0`, no effect (R177) -/
  | resetWrite (off : Offset)
  /-- SLVERR: `pslverr = 1` and `prdata = 0`, the bus fault `BusError(off)` of R64 -/
  | busError (off : Offset)
  deriving DecidableEq, Repr

/-- One event of the single sequence of R79. -/
inductive Event where
  /-- the host's next transfer -/
  | transfer (t : Transfer)
  /-- the engine's turn: the running command completes if it can (R109) -/
  | engine
  /-- a transfer at the rising edge at which the running command, if there is one, has its turn (R157) -/
  | together (t : Transfer)
  /-- the host's `POLL off, mask, val`: a read, repeated until `(value and mask) = val` (R96) -/
  | poll (off : Offset) (mask val : Word)
  /-- the random source now offers these words, in order (R136) -/
  | offer (words : List Word)
  /-- `rst_n` falls: power-on reset begins (R176) -/
  | resetAssert
  /-- `rst_n` is sampled 1: the block leaves reset (R176) -/
  | resetRelease
  deriving DecidableEq, Repr

/-- The whole state. -/
structure State where
  /-- NWORDS = W / 32, the build parameter (R6); no step changes it -/
  nwords : Nat
  /-- operand register A, an integer in `[0, 2^W - 1]` (R22, R23) -/
  a : Nat
  /-- operand register B (R22, R23) -/
  b : Nat
  /-- operand register M (R22, R23) -/
  m : Nat
  /-- operand register X (R22, R25) -/
  x : Nat
  /-- result register R (R22, R24) -/
  r : Nat
  /-- CMD (R33) -/
  cmd : Word
  /-- STATUS (R34) -/
  status : Word
  /-- INFO (R39) -/
  info : Word
  /-- IRQ_EN (R42) -/
  irqEn : Word
  /-- IRQ_STAT (R43) -/
  irqStat : Word
  /-- SEQ (R29) -/
  seq : Seq
  /-- hidden working state (R47) -/
  work : Work
  /-- the input pin `rst_n`; `false` while power-on reset is asserted (R176) -/
  rstN : Bool
  /-- words the random source offers and the engine has not taken, the one on `rng_data` first (R136) -/
  rng : List Word
  /-- the model's own: the events still to come, in the order of R79 (log entry 2) -/
  schedule : List Event
  /-- the host's record of its transfers' responses, oldest first (R96, R191) -/
  trace : List Response
  deriving DecidableEq, Repr

/-- Why the machine would stop. No rule of the spec stops bcd-mae: command errors are completions (R108) and bus
errors are responses that change no state (R64, R156), so there is no fault and this type has no constructor. -/
inductive Fault where
  deriving DecidableEq, Repr

/-- Why an instruction would have no meaning. -/
inductive Refusal where
  /-- raised by `exec` for a command that has no meaning yet; safe: the run stops. No arm raises it. -/
  | notModelled (mnemonic : String)
  deriving DecidableEq, Repr

/-- The state after power-on reset of an instance with `nwords` words per operand, `rst_n` released (R51, R176). The
fields that belong to the model or to the other agents are empty (log entries 2, 6, 7, 10). -/
def State.powerOn (nwords : Nat) : State :=
  { nwords := nwords, a := 0, b := 0, m := 0, x := 0, r := 0, cmd := 0, status := 0, info := 0, irqEn := 0,
    irqStat := 0, seq := .idle, work := .fresh, rstN := true, rng := [], schedule := [], trace := [] }

/-- The machine right after reset (R51), at the spec's reference width (R6; log entry 1). -/
def State.reset : State := State.powerOn Config.referenceNwords

end Sys2Proof.Machine
end

