-- ==== Sys2Proof/Machine/Operands.lean ====
section
/-! DEFINITION. The register map and the words of the operand windows (spec/10_state.md R22, R27, R28, R30;
spec/20_memory.md R66, R69, R77). -/

namespace Sys2Proof.Machine

/-- The five W-bit registers (R22). -/
inductive Operand where
  | a | b | m | x | r
  deriving DecidableEq, Repr

/-- What an offset addresses (R30, R77). -/
inductive Target where
  /-- `paddr[1:0] ≠ 0` (R64) -/
  | misaligned
  /-- 0x020 to 0x1FC and 0xC00 to 0xFFC (R66) -/
  | reserved
  | id | param | cmd | status | info | ctrl | irqEn | irqStat
  /-- word `k` of a window (R27) -/
  | word (q : Operand) (k : Nat)
  deriving DecidableEq, Repr

/-- The first offset of a register's window (R22). -/
def Operand.window : Operand → Nat
  | .a => 0x200
  | .b => 0x400
  | .m => 0x600
  | .x => 0x800
  | .r => 0xA00

/-- The control and status register at an aligned offset below 0x200 (R30). -/
def controlTarget : Nat → Target
  | 0x000 => .id
  | 0x004 => .param
  | 0x008 => .cmd
  | 0x00C => .status
  | 0x010 => .info
  | 0x014 => .ctrl
  | 0x018 => .irqEn
  | 0x01C => .irqStat
  | _ => .reserved

/-- The address map (R77), with the alignment rule first (R64). -/
def targetOf (off : Offset) : Target :=
  let o := off.toNat
  if o % 4 ≠ 0 then .misaligned
  else if o < 0x200 then controlTarget o
  else if o < 0x400 then .word .a ((o - 0x200) / 4)
  else if o < 0x600 then .word .b ((o - 0x400) / 4)
  else if o < 0x800 then .word .m ((o - 0x600) / 4)
  else if o < 0xA00 then .word .x ((o - 0x800) / 4)
  else if o < 0xC00 then .word .r ((o - 0xA00) / 4)
  else .reserved

/-- The offset of word `k` of a window (R27). -/
def wordOffset (q : Operand) (k : Nat) : Offset := BitVec.ofNat 12 (q.window + 4 * k)

/-- Bits `[32k+31 : 32k]` of a value (R27). -/
def getWord (v k : Nat) : Word := BitVec.ofNat 32 (v / 2 ^ (32 * k))

/-- A value with bits `[32k+31 : 32k]` replaced by `w` (R72). -/
def setWord (v k : Nat) (w : Word) : Nat :=
  v % 2 ^ (32 * k) + w.toNat * 2 ^ (32 * k) + v / 2 ^ (32 * (k + 1)) * 2 ^ (32 * (k + 1))

/-- The value of a register given by its words, least significant first (R28). -/
def valueOfWords : List Word → Nat
  | [] => 0
  | w :: ws => w.toNat + 2 ^ 32 * valueOfWords ws

/-- The first `k` words of a value, least significant first (R27). -/
def wordsOfValue : Nat → Nat → List Word
  | 0, _ => []
  | k + 1, v => BitVec.ofNat 32 v :: wordsOfValue k (v / 2 ^ 32)

/-- Byte lane `j` of a register word (R69). -/
def byteLane (w : Word) (j : Nat) : BitVec 8 := w.extractLsb' (8 * j) 8

/-- Byte `i` of an operand, little-endian: lane `i mod 4` of word `i div 4` (R69). -/
def operandByte (v i : Nat) : BitVec 8 := byteLane (getWord v (i / 4)) (i % 4)

/-- The value of a W-bit register. -/
def State.operand (s : State) : Operand → Nat
  | .a => s.a
  | .b => s.b
  | .m => s.m
  | .x => s.x
  | .r => s.r

/-- Write a W-bit register; R is read only for the host (R22), so a host write leaves it alone. -/
def State.setOperand (s : State) (q : Operand) (v : Nat) : State :=
  match q with
  | .a => { s with a := v }
  | .b => { s with b := v }
  | .m => { s with m := v }
  | .x => { s with x := v }
  | .r => s

/-- A read of word `k` of a window; the words at or above NWORDS read as zero (R27). -/
def readWord (q : Operand) (k : Nat) (s : State) : Word :=
  if k < s.nwords then getWord (s.operand q) k else 0

/-- A write of word `k` of a window while IDLE (R72); the words at or above NWORDS ignore it (R27). -/
def writeWord (q : Operand) (k : Nat) (v : Word) (s : State) : State :=
  if k < s.nwords then s.setOperand q (setWord (s.operand q) k v) else s

/-- The PARAM register: `{SPMAX = 29, NSP = 10, NWORDS}` (R32). -/
def paramWord (nwords : Nat) : Word := (29#8 ++ 10#8 ++ BitVec.ofNat 16 nwords : BitVec 32)

/-- CMD's read-back while CMD holds `c`: the accepted word (R33), with its reserved field reading 0 (R44). DEDUCED: R44,
which is about this field, limits R33 where the accepted word has RSV not 0 (log entry 21). -/
def cmdReadBack (c : Word) : Word := c &&& 0x0000FFFF

/-- The value a read of a register returns (R67, R74). -/
def readReg (t : Target) (s : State) : Word :=
  match t with
  | .misaligned => 0
  | .reserved => 0
  | .id => Config.idWord
  | .param => paramWord s.nwords
  | .cmd => cmdReadBack s.cmd
  | .status => s.status
  | .info => s.info
  | .ctrl => 0
  | .irqEn => s.irqEn
  | .irqStat => s.irqStat
  | .word q k => readWord q k s

end Sys2Proof.Machine
end

