-- ==== Sys2Proof/Machine/Flags.lean ====
section
/-! DEFINITION. The fields of STATUS, INFO, IRQ_EN and IRQ_STAT, the words the engine writes there, and the outputs
that are functions of the state (spec/10_state.md R34 to R45; spec/60_exceptions.md R151, R160). -/

namespace Sys2Proof.Machine

/-- The error codes a command can end with (R151). -/
inductive ErrCode where
  | invalidArgument
  | noInverse
  | illegalCommand
  deriving DecidableEq, Repr

/-- ERRCODE (R151). -/
def ErrCode.code : ErrCode → BitVec 4
  | .invalidArgument => 1
  | .noInverse => 2
  | .illegalCommand => 3

/-- How a primality command decided (R40). -/
inductive PrimeClass where
  | belowTwo
  | smallPrime
  | smallFactor
  | prefilterPass
  | mrComposite
  | mrProbablePrime
  deriving DecidableEq, Repr

/-- INFO.CLASS (R40). -/
def PrimeClass.code : PrimeClass → BitVec 4
  | .belowTwo => 1
  | .smallPrime => 2
  | .smallFactor => 3
  | .prefilterPass => 4
  | .mrComposite => 5
  | .mrProbablePrime => 6

/-- STATUS after acceptance (R106). -/
def statusBusy : Word := 0x00000001

/-- STATUS after a successful completion: `zext_32({result, 0, 1, 0})` (R107). -/
def statusDone (result : Bool) : Word :=
  (0#28 ++ BitVec.ofBool result ++ 0b010#3 : BitVec 32)

/-- STATUS after an error completion: `zext_32({code, 0000, 0, 1, 1, 0})` (R108). -/
def statusError (e : ErrCode) : Word :=
  (0#20 ++ e.code ++ 0b00000110#8 : BitVec 32)

/-- INFO: `zext_32({s, rdone, 0000, class})` (R131). -/
def infoWord (c : PrimeClass) (rdone s : Nat) : Word :=
  (BitVec.ofNat 16 s ++ BitVec.ofNat 8 rdone ++ 0#4 ++ c.code : BitVec 32)

/-- IRQ_STAT.DONE_IP (R43). -/
def doneIp : Word := 0x00000001

/-- IRQ_STAT.OVR_IP (R43). -/
def ovrIp : Word := 0x00000002

/-- The bits of IRQ_EN and IRQ_STAT that exist; the others are RAZ/WI (R42, R43, R44). -/
def irqMask : Word := 0x00000003

/-- STATUS.BUSY (R34). -/
def busyBit (status : Word) : Bool := status.getLsbD 0

/-- STATUS.DONE (R34). -/
def doneBit (status : Word) : Bool := status.getLsbD 1

/-- STATUS.ERR (R34). -/
def errBit (status : Word) : Bool := status.getLsbD 2

/-- STATUS.RESULT (R34). -/
def resultBit (status : Word) : Bool := status.getLsbD 3

/-- STATUS.ERRCODE (R34). -/
def errCodeField (status : Word) : BitVec 4 := status.extractLsb' 8 4

/-- INFO.CLASS (R39). -/
def classField (info : Word) : BitVec 4 := info.extractLsb' 0 4

/-- INFO.RDONE (R39). -/
def rdoneField (info : Word) : BitVec 8 := info.extractLsb' 8 8

/-- INFO.S (R39). -/
def sField (info : Word) : BitVec 16 := info.extractLsb' 16 16

/-- The interrupt output (R160). -/
def irq (s : State) : Bool :=
  (s.irqStat.getLsbD 0 && s.irqEn.getLsbD 0) || (s.irqStat.getLsbD 1 && s.irqEn.getLsbD 1)

/-- IRQ_STAT after a W1C write of `v` (R43, R68). -/
def w1c (irqStat v : Word) : Word := irqStat &&& ~~~(v &&& irqMask)

end Sys2Proof.Machine
end

