-- ==== Sys2Proof/Machine/Ops.lean ====
section
/-! DEFINITION. The shared operations: acceptance, the two kinds of completion (an error completion is bcd-mae's
taking of an exception, R158; it has no return, R159), the ignored write, the resets, and the bus response
(spec/40_modarith.md R106 to R108; spec/20_memory.md R73; spec/70_reset_and_hazards.md R176, R178). -/

namespace Sys2Proof.Machine

/-- Acceptance of a command word (R106). No hidden value comes from an earlier command (R47). STATUS.RESULT is cleared
here, as R106 and R34 say: DESIGN CHOICE against the words of R185 (log entry 23). -/
def accept (c : Word) (s : State) : State :=
  { s with cmd := c, seq := .busy, status := statusBusy, work := .fresh }

/-- Successful completion (R107). -/
def complete (r : Nat) (x : Option Nat) (info : Word) (result : Bool) (s : State) : State :=
  { s with r := r, x := x.getD s.x, info := info, status := statusDone result, irqStat := s.irqStat ||| doneIp,
           seq := .idle, work := .fresh }

/-- Error completion: `raise Error(code)` (R108, R158). -/
def raiseError (e : ErrCode) (s : State) : State :=
  { s with status := statusError e, irqStat := s.irqStat ||| doneIp, seq := .idle, work := .fresh }

/-- A write ignored because the engine is busy (R73). -/
def ignoredWrite (s : State) : State :=
  { s with irqStat := s.irqStat ||| ovrIp }

/-- Soft reset (R178). -/
def softReset (s : State) : State :=
  { s with seq := .idle, cmd := 0, status := 0, info := 0, r := 0, irqStat := 0, work := .fresh }

/-- Power-on reset: `rst_n` falls (R176). What belongs to the other agents is not the block's to clear. -/
def powerOnReset (s : State) : State :=
  { State.powerOn s.nwords with rstN := false, rng := s.rng, schedule := s.schedule, trace := s.trace }

/-- `rst_n` is released (R176). -/
def releaseReset (s : State) : State :=
  { s with rstN := true }

/-- A transfer's response reaches the host (R62, R96). -/
def respond (p : Response) (s : State) : State :=
  { s with trace := s.trace ++ [p] }

/-- The random source's words not yet taken are `ws` (R136). -/
def setRng (ws : List Word) (s : State) : State :=
  { s with rng := ws }

/-- MRTEST waits for random words with this much done (R137). -/
def setWork (w : Work) (s : State) : State :=
  { s with work := w }

/-- The events still to come. -/
def setSchedule (es : List Event) (s : State) : State :=
  { s with schedule := es }

/-- The machine with command word `c` accepted and the engine's turn next (log entry 3). -/
def placeCommand (c : Word) (s : State) : State :=
  setSchedule (.engine :: s.schedule) (accept c (releaseReset s))

end Sys2Proof.Machine
end

