-- ==== Sys2Proof/Machine/Bus.lean ====
section
/-! DEFINITION. Bus transfers to the register block (spec/20_memory.md R62 to R74; spec/70_reset_and_hazards.md
R177). -/

namespace Sys2Proof.Machine

/-- A write to CMD or to an operand window: done while IDLE, ignored while BUSY (R68, R73). -/
def whileIdle (f : State → State) (s : State) : State :=
  match s.seq with
  | .idle => f s
  | .busy => ignoredWrite s

/-- The effect of a legal write of `v` (R68). -/
def writeReg (t : Target) (v : Word) (s : State) : State :=
  match t with
  | .misaligned => s
  | .reserved => s
  | .id => s
  | .param => s
  | .cmd => whileIdle (accept v) s
  | .status => s
  | .info => s
  | .ctrl => if v.getLsbD 0 then softReset s else s
  | .irqEn => { s with irqEn := v &&& irqMask }
  | .irqStat => { s with irqStat := w1c s.irqStat v }
  | .word .a k => whileIdle (writeWord .a k v) s
  | .word .b k => whileIdle (writeWord .b k v) s
  | .word .m k => whileIdle (writeWord .m k v) s
  | .word .x k => whileIdle (writeWord .x k v) s
  | .word .r _ => s

/-- Whether an offset answers SLVERR to every transfer (R64, R66). -/
def Target.slverr : Target → Bool
  | .misaligned => true
  | .reserved => true
  | .id => false
  | .param => false
  | .cmd => false
  | .status => false
  | .info => false
  | .ctrl => false
  | .irqEn => false
  | .irqStat => false
  | .word _ _ => false

/-- What a transfer answers (R62, R64 to R66, R177). -/
def responseOf (t : Transfer) (s : State) : Response :=
  match t with
  | .read off =>
    if s.rstN then
      if (targetOf off).slverr then .busError off else .readData off (readReg (targetOf off) s)
    else .readData off 0
  | .write off _ strb =>
    if s.rstN then
      if (targetOf off).slverr ∨ strb ≠ 0b1111 then .busError off else .writeDone off
    else .resetWrite off

/-- What a transfer does to the registers (R65, R67, R68, R177). -/
def effectOf (t : Transfer) (s : State) : State :=
  match t with
  | .read _ => s
  | .write off v strb => if s.rstN ∧ strb = 0b1111 then writeReg (targetOf off) v s else s

/-- One whole transfer, as the model's host step (R62). -/
def busTransfer (t : Transfer) (s : State) : State :=
  respond (responseOf t s) (effectOf t s)

/-- The value a read returns. A read that got SLVERR returns the bus fault of R64 and no value: DESIGN CHOICE, the spec
does not say whether its `prdata` is a value read (log entry 24). -/
def Response.data : Response → Option Word
  | .readData _ v => some v
  | .writeDone _ => none
  | .resetWrite _ => none
  | .busError _ => none

/-- `prdata` in the access phase, where the spec gives it a value: of a read (R62), with SLVERR (R64), and during reset
(R177). It gives none for a write that ends without error, and neither does the model: DESIGN CHOICE (log entry
22). -/
def Response.prdata : Response → Option Word
  | .readData _ v => some v
  | .writeDone _ => none
  | .resetWrite _ => some 0
  | .busError _ => some 0

/-- `pslverr` in a transfer's access phase (R64). -/
def Response.pslverr : Response → Bool
  | .readData _ _ => false
  | .writeDone _ => false
  | .resetWrite _ => false
  | .busError _ => true

end Sys2Proof.Machine
end

