-- ==== Sys2Proof/Machine/Arith.lean ====
section
/-! DEFINITION. The integer algorithms of the commands, over unbounded integers (R12): square-and-multiply, extended
Euclid, the prefilter, one Miller-Rabin round, and the witness draw (spec/40_modarith.md R112, R117;
spec/41_primality.md R127 to R136). Every loop counts down a bound on its own length (log entry 11). -/

namespace Sys2Proof.Machine

/-- The least `k` with `v < 2^k` (R14). -/
def bitlength (v : Nat) : Nat := if v = 0 then 0 else v.log2 + 1

/-- The loop of R112; `fuel` is at least the number of bits of `e` left. -/
def expLoop (m : Nat) : (fuel acc base e : Nat) → Nat
  | 0, acc, _, _ => acc
  | fuel + 1, acc, base, e =>
    if e = 0 then acc
    else expLoop m fuel (if e % 2 = 1 then acc * base % m else acc) (base * base % m) (e / 2)

/-- `(b^e) mod m` by binary square-and-multiply, the base reduced first (R112). -/
def modPow (b e m : Nat) : Nat := expLoop m (bitlength e) (1 % m) (b % m) e

/-- The loop of R117; `r1` falls at every iteration, so `fuel` is at least `r1`. -/
def eeaLoop : (fuel : Nat) → (r0 r1 : Nat) → (t0 t1 : Int) → Nat × Int
  | 0, r0, _, t0, _ => (r0, t0)
  | fuel + 1, r0, r1, t0, t1 =>
    if r1 = 0 then (r0, t0)
    else eeaLoop fuel r1 (r0 - r0 / r1 * r1) t1 (t0 - (r0 / r1 : Nat) * t1)

/-- The extended Euclidean algorithm on `(m, a)`: the gcd and the Bézout coefficient of `a` (R117). -/
def eea (m a : Nat) : Nat × Int := eeaLoop a m a 0 1

/-- The outcome of the prefilter (R127). -/
inductive Prefilter where
  | decided (c : PrimeClass) (result : Bool)
  | pass
  deriving DecidableEq, Repr

/-- The prefilter: steps 1 and 2 of the primality test (R127). -/
def prefilter (n : Nat) : Prefilter :=
  if n < 2 then .decided .belowTwo false
  else if n ∈ Config.smallPrimes then .decided .smallPrime true
  else if ∃ p ∈ Config.smallPrimes, n % p = 0 then .decided .smallFactor false
  else .pass

/-- The loop of `v2`; `fuel` is at least the number of bits of `v`. -/
def v2Loop : (fuel v : Nat) → Nat
  | 0, _ => 0
  | fuel + 1, v => if v % 2 = 0 then v2Loop fuel (v / 2) + 1 else 0

/-- For `v > 0`, the largest `s` with `2^s` dividing `v` (R14). -/
def v2 (v : Nat) : Nat := v2Loop (bitlength v) v

/-- `decomp(n) = (d, s)` with `n - 1 = d * 2^s` and `d` odd (R129). -/
def decomp (n : Nat) : Nat × Nat := ((n - 1) / 2 ^ v2 (n - 1), v2 (n - 1))

/-- At most `k` squarings of `x`, passing where one gives `n - 1` (R130). -/
def squareLoop (n : Nat) : (k x : Nat) → Bool
  | 0, _ => false
  | k + 1, x => if x * x % n = n - 1 then true else squareLoop n k (x * x % n)

/-- One Miller-Rabin round with witness `a`: `true` is PASS (R130). -/
def mrRound (n a : Nat) : Bool :=
  let x := modPow a (decomp n).1 n
  if x = 1 ∨ x = n - 1 then true else squareLoop n ((decomp n).2 - 1) x

/-- `L`, the bits one witness attempt keeps (R136). -/
def attemptBits (n : Nat) : Nat := bitlength (n - 4)

/-- `k`, the words one witness attempt takes (R136). -/
def attemptWords (n : Nat) : Nat := (attemptBits n + 31) / 32

/-- The outcome of a witness draw on the words at hand. -/
inductive Draw where
  /-- the witness, and the words not taken -/
  | drawn (a : Nat) (rest : List Word)
  /-- the words ran out; `buffer` was taken for the attempt in progress -/
  | starved (buffer : List Word)
  deriving DecidableEq, Repr

/-- `draw_witness(n)` on the offered words, an attempt having taken `buffer` before (R135, R136). -/
def drawWitness (n : Nat) : (buffer words : List Word) → Draw
  | buffer, [] => .starved buffer
  | buffer, w :: ws =>
    let taken := buffer ++ [w]
    if taken.length < attemptWords n then drawWitness n taken ws
    else
      let v := valueOfWords taken % 2 ^ attemptBits n
      if v ≤ n - 4 then .drawn (v + 2) ws else drawWitness n [] ws

/-- The outcome of the rounds of an MRTEST on the words at hand. -/
inductive Rounds where
  /-- round `i` failed with witness `a` -/
  | failed (i a : Nat) (rest : List Word)
  /-- every round passed, `a` the last witness -/
  | passed (a : Nat) (rest : List Word)
  /-- the words ran out after `passed` rounds -/
  | starved (passed : Nat) (buffer : List Word)
  deriving DecidableEq, Repr

/-- The loop of R133: the round in progress and `more` rounds after it, `passed` rounds having passed. -/
def mrRounds (n : Nat) : (more passed : Nat) → (buffer words : List Word) → Rounds
  | 0, passed, buffer, words =>
    match drawWitness n buffer words with
    | .starved buffer' => .starved passed buffer'
    | .drawn a rest => if mrRound n a then .passed a rest else .failed (passed + 1) a rest
  | more + 1, passed, buffer, words =>
    match drawWitness n buffer words with
    | .starved buffer' => .starved passed buffer'
    | .drawn a rest => if mrRound n a then mrRounds n more (passed + 1) [] rest else .failed (passed + 1) a rest

end Sys2Proof.Machine
end

