-- ==== Sys2Proof/Machine/ModArith.lean ====
section
/-! DEFINITION. The modular-arithmetic commands: the completion step of MODMUL, MODEXP and MODINV
(spec/40_modarith.md R110, R112, R116). -/

namespace Sys2Proof.Machine

/-- MODMUL (R110). -/
def execModmul (s : State) : Host.Outcome State Fault Refusal :=
  if s.m = 0 then .next (raiseError .invalidArgument s)
  else .next (complete (s.a * s.b % s.m) none 0 false s)

/-- MODEXP (R112). -/
def execModexp (s : State) : Host.Outcome State Fault Refusal :=
  if s.m = 0 then .next (raiseError .invalidArgument s)
  else .next (complete (modPow s.a s.b s.m) none 0 false s)

/-- MODINV (R116, R118). -/
def execModinv (s : State) : Host.Outcome State Fault Refusal :=
  if s.m = 0 then .next (raiseError .invalidArgument s)
  else if (eea s.m s.a).1 ≠ 1 then .next (raiseError .noInverse s)
  else .next (complete ((eea s.m s.a).2 % (s.m : Int)).toNat none 0 false s)

end Sys2Proof.Machine
end

