-- ==== Sys2Proof/Machine/Primality.lean ====
section
/-! DEFINITION. The primality commands: the completion step of TRIALDIV, MRROUND and MRTEST, and the output
`rng_ready` (spec/41_primality.md R131 to R137). -/

namespace Sys2Proof.Machine

/-- Completion of a primality command: R and STATUS.RESULT are the Boolean result (R24, R38). -/
def completeTest (result : Bool) (x : Option Nat) (info : Word) (s : State) : State :=
  complete result.toNat x info result s

/-- TRIALDIV (R131). -/
def execTrialdiv (s : State) : Host.Outcome State Fault Refusal :=
  match prefilter s.a with
  | .decided c result => .next (completeTest result none (infoWord c 0 0) s)
  | .pass => .next (completeTest false none (infoWord .prefilterPass 0 0) s)

/-- MRROUND (R132). The bound `a > n - 2` is read over the integers; `n < 5` is tested before it. -/
def execMrround (s : State) : Host.Outcome State Fault Refusal :=
  if s.a < 5 ∨ s.a % 2 = 0 ∨ s.x < 2 ∨ s.x > s.a - 2 then .next (raiseError .invalidArgument s)
  else if mrRound s.a s.x then .next (completeTest true none (infoWord .mrProbablePrime 1 (decomp s.a).2) s)
  else .next (completeTest false none (infoWord .mrComposite 1 (decomp s.a).2) s)

/-- MRTEST (R133) on the random words at hand. Where they run out it stays BUSY, holding what it took (R137). -/
def execMrtest (rounds : Nat) (s : State) : Host.Outcome State Fault Refusal :=
  if rounds = 0 then .next (raiseError .invalidArgument s)
  else match prefilter s.a with
    | .decided c result => .next (completeTest result none (infoWord c 0 0) s)
    | .pass =>
      match mrRounds s.a (rounds - 1 - s.work.passed) s.work.passed s.work.buffer s.rng with
      | .failed i a rest =>
        .next (completeTest false (some a) (infoWord .mrComposite i (decomp s.a).2) (setRng rest s))
      | .passed a rest =>
        .next (completeTest true (some a) (infoWord .mrProbablePrime rounds (decomp s.a).2) (setRng rest s))
      | .starved passed buffer => .next (setWork ⟨passed, buffer⟩ (setRng [] s))

/-- The input `rng_valid`: the random source offers a word (R61, R136). -/
def rngValid (s : State) : Bool := s.rng != []

/-- The input `rng_data`: the word offered, where there is one (R61, R136). -/
def rngData (s : State) : Option Word := s.rng.head?

/-- The output `rng_ready`: 1 only while an MRTEST needs a witness (R136), and 0 during reset. -/
def rngReady (s : State) : Bool :=
  s.rstN && s.seq == .busy &&
    match decode s.cmd with
    | .ok (.mrtest rounds) => rounds != 0 && prefilter s.a == .pass
    | .ok .modmul => false
    | .ok .modexp => false
    | .ok .modinv => false
    | .ok .trialdiv => false
    | .ok .mrround => false
    | .error _ => false

end Sys2Proof.Machine
end

