-- ==== Sys2Proof/Machine/Dispatch.lean ====
section
/-! DEFINITION. The engine's completion step of a decoded command, one arm per constructor (spec/40_modarith.md
R109). -/

namespace Sys2Proof.Machine

def exec (i : Instr) (s : State) : Host.Outcome State Fault Refusal :=
  match i with
  | .modmul => Sys2Proof.Machine.execModmul s
  | .modexp => Sys2Proof.Machine.execModexp s
  | .modinv => Sys2Proof.Machine.execModinv s
  | .trialdiv => Sys2Proof.Machine.execTrialdiv s
  | .mrround => Sys2Proof.Machine.execMrround s
  | .mrtest rounds => Sys2Proof.Machine.execMrtest rounds s

end Sys2Proof.Machine
end

