-- ==== Sys2Proof/Machine/Engine.lean ====
section
/-! DEFINITION. The engine's turn and the effect of one event of the sequence of spec/20_memory.md R79
(spec/40_modarith.md R109; spec/60_exceptions.md R154, R157; spec/70_reset_and_hazards.md R176). -/

namespace Sys2Proof.Machine

/-- A running command completes if it can; an IDLE engine does nothing (R109, R168), nor does one in reset (R176). -/
def engineTurn (s : State) : Host.Outcome State Fault Refusal :=
  if s.rstN then
    match s.seq with
    | .idle => .next s
    | .busy =>
      match decode s.cmd with
      | .ok i => exec i s
      | .error _ => .next (raiseError .illegalCommand s)
  else .next s

/-- One read of a `POLL` (R96): where the value read does not satisfy it, the engine has its turn and the read is
repeated (log entry 9). -/
def pollRead (off : Offset) (mask val : Word) (s : State) : State :=
  let t := busTransfer (.read off) s
  if (responseOf (.read off) s).prdata.map (· &&& mask) = some val then t
  else setSchedule (.engine :: .poll off mask val :: t.schedule) t

/-- What follows a transfer at the edge where a command may complete: the turn of a command that was running before
the edge. A command accepted at this edge completes at the earliest one edge later (R181). -/
def whileRunning (f : State → Host.Outcome State Fault Refusal) (before after : State) :
    Host.Outcome State Fault Refusal :=
  match before.seq with
  | .idle => .next after
  | .busy => f after

/-- The effect of one event. A transfer at the same edge as the engine's turn is judged against the state before the
edge, and what the completion sets wins over what the write clears (R157, R161). -/
def applyEvent (e : Event) (s : State) : Host.Outcome State Fault Refusal :=
  match e with
  | .transfer t => .next (busTransfer t s)
  | .engine => engineTurn s
  | .together t => whileRunning engineTurn s (busTransfer t s)
  | .poll off mask val => .next (pollRead off mask val s)
  | .offer words => .next (setRng words s)
  | .resetAssert => .next (powerOnReset s)
  | .resetRelease => .next (releaseReset s)

end Sys2Proof.Machine
end

