-- ==== Sys2Proof/Machine/HostProgram.lean ====
section
/-! DEFINITION. The host-program notation of spec/30_encoding.md R96 and R97, as the events it stands for, a host's
access at a system address (spec/20_memory.md R63), and which events are the host's. -/

namespace Sys2Proof.Machine

/-- `WR off, v`: one write with full strobes (R96). -/
def wr (off : Offset) (v : Word) : Event := .transfer (.write off v 0b1111)

/-- `RD off` (R96). -/
def rd (off : Offset) : Event := .transfer (.read off)

/-- The symbolic offsets of R96. -/
def offCmd : Offset := 0x008
def offStatus : Offset := 0x00C
def offInfo : Offset := 0x010
def offCtrl : Offset := 0x014
def offIrqEn : Offset := 0x018
def offIrqStat : Offset := 0x01C

/-- `LD Q, v`: every word of the register, word 0 first (R97). -/
def progLd (nwords : Nat) (q : Operand) (v : Nat) : List Event :=
  (List.range nwords).map fun k => wr (wordOffset q k) (getWord v k)

/-- `GO mnemonic` (R97). -/
def progGo (i : Instr) : Event := wr offCmd (encode i)

/-- `WAIT`: `POLL STATUS, 0x00000001, 0x00000000` (R97). -/
def progWait : Event := .poll offStatus 0x00000001 0x00000000

/-- `GET Q` (R97). -/
def progGet (nwords : Nat) (q : Operand) : List Event :=
  (List.range nwords).map fun k => rd (wordOffset q k)

/-- `CHECK` (R97). -/
def progCheck : List Event := [rd offStatus, rd offInfo]

/-- `ACK` (R97). -/
def progAck : Event := wr offIrqStat 0x00000003

/-- `IEN m` (R97). -/
def progIen (m : Word) : Event := wr offIrqEn m

/-- `SRST` (R97). -/
def progSrst : Event := wr offCtrl 0x00000001

/-- A transfer at a system address: it reaches the block where the platform's decoder selects it (R63). -/
def accessAt (addr : Nat) (t : Offset → Transfer) : Option Event :=
  (Config.paddrOf addr).map fun off => .transfer (t off)

/-- Whether an event is the host's: a transfer or a POLL. The others are the engine's, the random source's and the
platform's (R21). -/
def Event.isHost : Event → Bool
  | .transfer _ => true
  | .together _ => true
  | .poll _ _ _ => true
  | .engine => false
  | .offer _ => false
  | .resetAssert => false
  | .resetRelease => false

end Sys2Proof.Machine
end

