-- ==== Sys2Proof/Machine/Run.lean ====
section
/-! DEFINITION. A run of a host program: where it ends and what it shows (spec/30_encoding.md R98;
spec/70_reset_and_hazards.md R191). -/

namespace Sys2Proof.Machine

/-- The host has completed its last transfer: no event still to come is the host's (R191). -/
def hostDone (s : State) : Bool := s.schedule.all fun e => !e.isHost

/-- Whether the run has ended: the host is done and the engine is IDLE (R191), whatever the other agents still do. -/
def runEnded (s : State) : Bool := hostDone s && s.seq == .idle

/-- What an ended run shows: the values read, and the registers (R191). -/
structure Observation where
  reads : List Word
  a : Nat
  b : Nat
  m : Nat
  x : Nat
  r : Nat
  cmd : Word
  status : Word
  info : Word
  irqEn : Word
  irqStat : Word
  deriving DecidableEq, Repr

/-- The observation of a run, in the state where it has ended (R191). A read that got SLVERR adds no value to `reads`:
DESIGN CHOICE (log entry 24). -/
def observe (s : State) : Observation :=
  { reads := s.trace.filterMap Response.data, a := s.a, b := s.b, m := s.m, x := s.x, r := s.r, cmd := s.cmd,
    status := s.status, info := s.info, irqEn := s.irqEn, irqStat := s.irqStat }

/-- The observation of the run from `s`, taken in the first state where the run has ended; `none` where that takes more
than `fuel` steps, as for a starved MRTEST it always does (R191). -/
def observeRun : (fuel : Nat) → State → Option Observation
  | 0, s => if runEnded s then some (observe s) else none
  | fuel + 1, s =>
    if runEnded s then some (observe s)
    else
      match step s with
      | .next t => observeRun fuel t
      | .fault _ => none
      | .refused _ => none

end Sys2Proof.Machine
end

