-- ==== Sys2Proof/Safety.lean ====
section
/-! DEFINITION. The legal states of bcd-mae, in the terms the statements use: the whole-machine rules of
spec/10_state.md R23, R24, R34, R35, R39, R40, R44, R47 and spec/70_reset_and_hazards.md R176. -/

namespace Sys2Proof.Machine

/-- The width is admissible and every W-bit register holds a value below `2^W` (R6, R23, R24). -/
abbrev RegistersInRange (s : State) : Prop :=
  Config.ValidNwords s.nwords ∧ s.a < 2 ^ (32 * s.nwords) ∧ s.b < 2 ^ (32 * s.nwords) ∧
    s.m < 2 ^ (32 * s.nwords) ∧ s.x < 2 ^ (32 * s.nwords) ∧ s.r < 2 ^ (32 * s.nwords)

/-- STATUS.BUSY is SEQ, and the fields of STATUS hold together (R34, R35, R151). -/
abbrev StatusCoherent (s : State) : Prop :=
  s.status &&& 0xFFFFF0F0 = 0 ∧
  (busyBit s.status = true ↔ s.seq = .busy) ∧
  (busyBit s.status = true → doneBit s.status = false ∧ errBit s.status = false ∧ resultBit s.status = false ∧
    errCodeField s.status = 0) ∧
  (errBit s.status = true → doneBit s.status = true ∧ errCodeField s.status ≠ 0) ∧
  (errBit s.status = false → errCodeField s.status = 0) ∧
  (resultBit s.status = true → doneBit s.status = true ∧ errBit s.status = false) ∧
  (errCodeField s.status).toNat ≤ 3

/-- The reserved bits of IRQ_EN and IRQ_STAT read 0 (R42, R43, R44). -/
abbrev IrqReservedZero (s : State) : Prop :=
  s.irqEn &&& 0xFFFFFFFC = 0 ∧ s.irqStat &&& 0xFFFFFFFC = 0

/-- Hidden state is held only while an MRTEST needs a witness, and then it is short of the command's rounds and of
one attempt's words (R47, R133, R136). -/
abbrev WorkHeldByMrtest (s : State) : Prop :=
  s.work = .fresh ∨
    (rngReady s = true ∧ s.work.passed < (rndField s.cmd).toNat ∧ s.work.buffer.length < attemptWords s.a)

/-- The last command completed with success. -/
abbrev Succeeded (s : State) : Prop := doneBit s.status = true ∧ errBit s.status = false

/-- INFO's reserved bits read 0, its class is one of R40's, S fits the width, and rounds are reported exactly with the
two Miller-Rabin classes (R39, R40, R131 to R133). -/
abbrev InfoLegal (s : State) : Prop :=
  s.info &&& 0x000000F0 = 0 ∧ (classField s.info).toNat ≤ 6 ∧ (sField s.info).toNat < 32 * s.nwords ∧
  (rdoneField s.info ≠ 0 ↔ 5 ≤ (classField s.info).toNat) ∧
  ((classField s.info).toNat ≤ 4 → sField s.info = 0)

/-- After a success, RESULT and R agree with the class (R24, R38, R40). -/
abbrev ResultReported (s : State) : Prop :=
  Succeeded s →
    (resultBit s.status = true ↔ classField s.info = 2 ∨ classField s.info = 6) ∧
    (classField s.info ≠ 0 → s.r = (resultBit s.status).toNat)

/-- While `rst_n` is 0 every register holds its power-on value (R176, R51). -/
abbrev HeldInReset (s : State) : Prop :=
  s.rstN = false →
    s = { State.powerOn s.nwords with rstN := false, rng := s.rng, schedule := s.schedule, trace := s.trace }

/-- The legal states. -/
abbrev Inv (s : State) : Prop :=
  RegistersInRange s ∧ StatusCoherent s ∧ IrqReservedZero s ∧ WorkHeldByMrtest s ∧ InfoLegal s ∧ ResultReported s ∧
    HeldInReset s

/-- A number that steps 1 and 2 of the test leave undecided: at least 2 and without a factor in `SP` (R127). -/
abbrev Undecided (n : Nat) : Prop := 2 ≤ n ∧ ∀ p ∈ [2, 3, 5, 7, 11, 13, 17, 19, 23, 29], n % p ≠ 0

/-- Witness `a` passes a Miller-Rabin round for `n`, over the integers: with `n - 1 = d * 2^e` and `d` odd, `a^d` is 1
or one of `a^d, a^(2d), ..., a^(2^(e-1) d)` is `n - 1`, all mod `n` (R129, R130). -/
def RoundPasses (n a : Nat) : Prop :=
  ∃ d e, n - 1 = d * 2 ^ e ∧ d % 2 = 1 ∧ (a ^ d % n = 1 ∨ ∃ i < e, a ^ (d * 2 ^ i) % n = n - 1)

/-- The state after a success that commits these values of R, X, STATUS and INFO and changes nothing else a host can
see but DONE_IP and SEQ (R107). -/
abbrev committed (s : State) (r x : Nat) (status info : Word) : State :=
  { s with r := r, x := x, status := status, info := info, irqStat := s.irqStat ||| 0x00000001, seq := .idle,
           work := .fresh }

/-- The state after an error, which leaves R, X and INFO alone (R108). -/
abbrev failed (s : State) (status : Word) : State :=
  { s with status := status, irqStat := s.irqStat ||| 0x00000001, seq := .idle, work := .fresh }

/-- The state after a transfer that changed no register, `es` being the events still to come. -/
abbrev served (s : State) (es : List Event) (p : Response) : State :=
  { s with schedule := es, trace := s.trace ++ [p] }

/-- The outcome of the running command's turn in a state outside reset: the decoded command's completion step, or
ILLEGAL_COMMAND with nothing else changed (R109, R154). -/
def commandTurn (s : State) : Host.Outcome State Fault Refusal :=
  match decode s.cmd with
  | .ok i => exec i s
  | .error _ => .next (failed s 0x00000306)

/-- The words a random source must offer, with no attempt discarded, for these witnesses of an `n` to be drawn
(R136). -/
def witnessWords (n : Nat) (witnesses : List Nat) : List Word :=
  witnesses.flatMap fun a => wordsOfValue (attemptWords n) (a - 2)

end Sys2Proof.Machine
end

