-- ==== Sys2Proof/Certificates/Slice0/Obligations.lean ====
section
/-! DEFINITION. The statements about bcd-mae for the provers, in the order of the spec's files. Each docstring names
the rule it formalises. -/

open Sys2Proof Sys2Proof.Machine

/-! ## Encoding -/

/-- R90, R95: the command words, and the illegal words of 95_test_vectors section 2.7. That they are illegal is R93;
the three names of why, where R92 has the one outcome ILLEGAL, are the model's (log entry 13). -/
def Obligations.CommandWordsDecode : Prop :=
  decode 0b00000000000000000000000000000001 = .ok .modmul ∧
  decode 0b00000000000000000000000000000010 = .ok .modexp ∧
  decode 0b00000000000000000000000000000011 = .ok .modinv ∧
  decode 0b00000000000000000000000000000100 = .ok .trialdiv ∧
  decode 0b00000000000000000000000000000101 = .ok .mrround ∧
  decode 0x00000006 = .ok (.mrtest 0) ∧ decode 0x00000806 = .ok (.mrtest 8) ∧
  decode 0x00001406 = .ok (.mrtest 20) ∧ decode 0x0000FF06 = .ok (.mrtest 255) ∧
  decode 0x00000000 = .error .reservedOpcode ∧ decode 0x00000007 = .error .reservedOpcode ∧
  decode 0x000000FF = .error .reservedOpcode ∧ decode 0x00000103 = .error .roundsNotZero ∧
  decode 0x00010001 = .error .reservedBits ∧ decode 0x80000806 = .error .reservedBits

/-- R87, R90, R95: decoding the word of any command that has one gives it back. -/
def Obligations.DecodeOfEncode : Prop := ∀ i : Instr, i.WellFormed → decode (encode i) = .ok i

/-- R90, R92: every word that decodes is the word of the command it decodes to, so no bit of a word is dropped. -/
def Obligations.EncodeOfDecode : Prop :=
  ∀ (c : Word) (i : Instr), decode c = .ok i → i.WellFormed ∧ encode i = c

/-- R91, R92: the words that decode to a command. -/
def Obligations.DecodeAcceptsExactlyLegalWords : Prop :=
  ∀ c : Word, (∃ i, decode c = .ok i) ↔
    c.extractLsb' 16 16 = 0 ∧
    (1 ≤ (c.extractLsb' 0 8).toNat ∧ (c.extractLsb' 0 8).toNat ≤ 6) ∧
    (c.extractLsb' 0 8 = 6 ∨ c.extractLsb' 8 8 = 0)

/-- R91: the legal words, by its formula; each matches one row of the opcode map, and every other word none. -/
def Obligations.LegalWordsMatchOneRow : Prop :=
  ∀ c : Word,
    (Legal c ↔ c.extractLsb' 16 16 = 0 ∧ (1 ≤ (c.extractLsb' 0 8).toNat ∧ (c.extractLsb' 0 8).toNat ≤ 6) ∧
      (c.extractLsb' 0 8 = 6 ∨ c.extractLsb' 8 8 = 0)) ∧
    (opcodeMap.filter fun row => row.hits c).length = if Legal c then 1 else 0

/-! ## Steps and the life of a command -/

/-- R109: the engine's turn of a step runs the decoded command; around it the step only takes the event off the
schedule (the schedule is the model's, log entry 2). -/
def Obligations.StepRunsDecodedCommand : Prop :=
  ∀ (s : State) (i : Instr) (es : List Event), s.rstN = true → s.seq = .busy → decode s.cmd = .ok i →
    (s.schedule = [] → step s = exec i s) ∧
    (s.schedule = .engine :: es → step s = exec i { s with schedule := es })

/-- R106, R109: a word placed for the next step (log entry 3) is accepted, and the next step runs it. -/
def Obligations.PlacedWordRunsNext : Prop :=
  ∀ (s : State) (w : Nat) (i : Instr), w < 2 ^ 32 → decode (BitVec.ofNat 32 w) = .ok i →
    step (s.withFetchWord 32 w) =
      exec i { s with cmd := BitVec.ofNat 32 w, seq := .busy, status := 1, work := .fresh, rstN := true }

/-- No state stops the machine. That a bus error (R64, R156) is a response and no fault of the machine is the model's
choice (log entry 10); a command error is a completion (R108), and a starved MRTEST stays BUSY with a next state
(R137). -/
def Obligations.EveryStepAnswersNext : Prop := ∀ s : State, ∃ t, step s = .next t

/-- R106: acceptance. -/
def Obligations.CommandWriteAccepts : Prop :=
  ∀ (s : State) (c : Word) (es : List Event), s.rstN = true → s.seq = .idle →
    s.schedule = .transfer (.write 0x008 c 0b1111) :: es →
    step s = .next { s with cmd := c, seq := .busy, status := 0x00000001, work := .fresh, schedule := es,
                            trace := s.trace ++ [.writeDone 0x008] }

/-- R154, R108: an accepted word that is not legal ends with ILLEGAL_COMMAND and changes nothing else. -/
def Obligations.IllegalWordEndsWithIllegalCommand : Prop :=
  ∀ (s : State) (es : List Event), s.rstN = true → s.seq = .busy → ¬ Legal s.cmd → s.schedule = .engine :: es →
    step s = .next (failed { s with schedule := es } 0x00000306)

/-- R181, R190: the first STATUS read after a CMD write shows BUSY if it comes before the engine's turn; after it, it
shows DONE, or BUSY if the command is an MRTEST. -/
def Obligations.FirstStatusReadAfterAcceptance : Prop :=
  ∀ (s : State) (c : Word) (es : List Event), s.rstN = true → s.seq = .idle →
    (s.schedule = .transfer (.write 0x008 c 0b1111) :: .transfer (.read 0x00C) :: es →
      ∃ t, core.run 2 s = .next t ∧
        t.trace = s.trace ++ [.writeDone 0x008, .readData 0x00C 0x00000001]) ∧
    (s.schedule = .transfer (.write 0x008 c 0b1111) :: .engine :: .transfer (.read 0x00C) :: es →
      ∃ t v, core.run 3 s = .next t ∧ t.trace = s.trace ++ [.writeDone 0x008, .readData 0x00C v] ∧
        ((busyBit v = false ∧ doneBit v = true ∧ t.seq = .idle) ∨
          (v = 0x00000001 ∧ t.seq = .busy ∧ ∃ n, decode c = .ok (.mrtest n))))

/-- R26, R71, R74: while a command stays BUSY, no step changes an operand, a result or a status it shows. -/
def Obligations.BusyStateIsStable : Prop :=
  ∀ s t : State, step s = .next t → s.seq = .busy → t.seq = .busy →
    t.a = s.a ∧ t.b = s.b ∧ t.m = s.m ∧ t.x = s.x ∧ t.r = s.r ∧ t.cmd = s.cmd ∧ t.info = s.info ∧
      t.status = s.status

/-- R71, R80, R178, R176: while the engine stays IDLE, R, CMD, STATUS and INFO keep what the last command left, but for
a soft reset (a CTRL write with bit 0 set) and for power-on reset, which clear them. -/
def Obligations.ResultsHoldBetweenCommands : Prop :=
  ∀ s t : State, step s = .next t → s.seq = .idle → t.seq = .idle →
    (t.r = s.r ∧ t.cmd = s.cmd ∧ t.status = s.status ∧ t.info = s.info) ∨
    ((t.r = 0 ∧ t.cmd = 0 ∧ t.status = 0 ∧ t.info = 0) ∧
      ((∃ es, s.schedule = .resetAssert :: es) ∨
        ∃ (v : Word) (es : List Event), s.rstN = true ∧ v.getLsbD 0 = true ∧
          (s.schedule = .transfer (.write 0x014 v 0b1111) :: es ∨
            s.schedule = .together (.write 0x014 v 0b1111) :: es)))

/-- R168, R180, R136: an IDLE engine's turn changes nothing at all, and in any state an offer of random words changes
nothing but the words offered (the schedule and the list of words are the model's, log entries 2 and 7). -/
def Obligations.IdleTurnAndOfferChangeNothing : Prop :=
  ∀ (s : State) (es : List Event) (ws : List Word),
    (s.seq = .idle → s.schedule = [] → step s = .next s) ∧
    (s.seq = .idle → s.schedule = .engine :: es → step s = .next { s with schedule := es }) ∧
    (s.schedule = .offer ws :: es → step s = .next { s with rng := ws, schedule := es })

/-! ## Bus transfers -/

/-- R7, R63: for every BASE, the platform's decoder maps the 4096 addresses of the block to its offsets. That it maps no
other address to the block is read from these rules by inference (DEDUCED, log entry 4). -/
def Obligations.BlockAddresses : Prop :=
  Config.base % 4096 = 0 ∧ (∀ off : Offset, Config.paddrOf (Config.base + off.toNat) = some off) ∧
    ∀ addr, addr < Config.base ∨ Config.base + 4096 ≤ addr → Config.paddrOf addr = none

/-- R64, R65, R66: the error transfers answer SLVERR with `prdata = 0` and change no register. -/
def Obligations.ErrorTransfersChangeNothing : Prop :=
  ∀ (s : State) (off : Offset) (v : Word) (strb : BitVec 4) (es : List Event), s.rstN = true →
    (off.toNat % 4 ≠ 0 ∨ (0x020 ≤ off.toNat ∧ off.toNat ≤ 0x1FC) ∨ 0xC00 ≤ off.toNat →
      (s.schedule = .transfer (.read off) :: es → step s = .next (served s es (.busError off)))) ∧
    (off.toNat % 4 ≠ 0 ∨ (0x020 ≤ off.toNat ∧ off.toNat ≤ 0x1FC) ∨ 0xC00 ≤ off.toNat ∨ strb ≠ 0b1111 →
      (s.schedule = .transfer (.write off v strb) :: es → step s = .next (served s es (.busError off)))) ∧
    (Response.busError off).prdata = some 0 ∧ (Response.busError off).pslverr = true

/-- R67: a read changes no register, and reading again answers the same. -/
def Obligations.ReadsHaveNoSideEffect : Prop :=
  ∀ (s : State) (off : Offset) (es : List Event),
    s.schedule = .transfer (.read off) :: .transfer (.read off) :: es →
    ∃ p, step s = .next (served s (.transfer (.read off) :: es) p) ∧
      core.run 2 s = .next { s with schedule := es, trace := s.trace ++ [p, p] }

/-- R30 to R34, R39, R41 to R44: what a read of each control register returns. CMD reads as the accepted word with its
reserved field 0, which is the whole word where RSV is 0; that R44 limits R33 where RSV is not 0 is the model's reading
(log entry 21). -/
def Obligations.ControlRegisterReads : Prop :=
  ∀ (s : State) (off : Offset) (es : List Event), s.rstN = true → s.schedule = .transfer (.read off) :: es →
    (off = 0x000 → step s = .next (served s es (.readData off 0x4D414531))) ∧
    (off = 0x004 → Config.ValidNwords s.nwords →
      step s = .next (served s es (.readData off (BitVec.ofNat 32 (0x1D0A0000 + s.nwords))))) ∧
    (off = 0x008 → step s = .next (served s es (.readData off (s.cmd &&& 0x0000FFFF)))) ∧
    (off = 0x008 → rsvField s.cmd = 0 → step s = .next (served s es (.readData off s.cmd))) ∧
    (off = 0x00C → step s = .next (served s es (.readData off s.status))) ∧
    (off = 0x010 → step s = .next (served s es (.readData off s.info))) ∧
    (off = 0x014 → step s = .next (served s es (.readData off 0))) ∧
    (off = 0x018 → step s = .next (served s es (.readData off s.irqEn))) ∧
    (off = 0x01C → step s = .next (served s es (.readData off s.irqStat)))

/-- R27: word `k` of a window reads bits `[32k+31 : 32k]` of the register below NWORDS, and 0 at or above it. -/
def Obligations.WindowWordReads : Prop :=
  ∀ (s : State) (q : Operand) (k : Nat) (es : List Event), s.rstN = true → k < 128 →
    s.schedule = .transfer (.read (BitVec.ofNat 12 (q.window + 4 * k))) :: es →
    ∃ v : Word, step s = .next (served s es (.readData (BitVec.ofNat 12 (q.window + 4 * k)) v)) ∧
      (k < s.nwords → ∀ j < 32, v.getLsbD j = (s.operand q).testBit (32 * k + j)) ∧
      (s.nwords ≤ k → v = 0)

/-- R72, R27: an IDLE write replaces one word of an operand; at or above NWORDS it has no effect. -/
def Obligations.IdleOperandWrite : Prop :=
  ∀ (s : State) (q : Operand) (k : Nat) (v : Word) (es : List Event), s.rstN = true → s.seq = .idle → k < 128 →
    q ≠ .r → s.schedule = .transfer (.write (BitVec.ofNat 12 (q.window + 4 * k)) v 0b1111) :: es →
    ∃ u, step s = .next ((served s es (.writeDone (BitVec.ofNat 12 (q.window + 4 * k)))).setOperand q u) ∧
      (k < s.nwords → ∀ j, u.testBit j =
        if 32 * k ≤ j ∧ j < 32 * k + 32 then v.getLsbD (j - 32 * k) else (s.operand q).testBit j) ∧
      (s.nwords ≤ k → u = s.operand q)

/-- R28: a register's value is the sum of its words. -/
def Obligations.ValueIsSumOfWords : Prop :=
  ∀ (s : State) (q : Operand), s.operand q < 2 ^ (32 * s.nwords) →
    s.operand q = ((List.range s.nwords).map fun k => (readWord q k s).toNat * 2 ^ (32 * k)).sum

/-- R69: byte `i` of an operand, lane `i mod 4` of word `i div 4`, is bits `[8i+7 : 8i]` of its value. -/
def Obligations.OperandBytesAreLittleEndian : Prop :=
  ∀ v i j : Nat, j < 8 → (operandByte v i).getLsbD j = v.testBit (8 * i + j)

/-- R97, R183: `LD Q, v` loads the whole value, whatever the register held. -/
def Obligations.LoadSetsWholeOperand : Prop :=
  ∀ (s : State) (q : Operand) (v : Nat) (es : List Event), s.rstN = true → s.seq = .idle → q ≠ .r →
    Config.ValidNwords s.nwords → s.operand q < 2 ^ (32 * s.nwords) → v < 2 ^ (32 * s.nwords) →
    s.schedule = progLd s.nwords q v ++ es →
    ∃ t, core.run s.nwords s = .next t ∧ t.operand q = v ∧ t.schedule = es ∧ t.seq = .idle ∧ t.r = s.r ∧
      t.cmd = s.cmd ∧ t.status = s.status ∧ t.info = s.info ∧ t.irqEn = s.irqEn ∧ t.irqStat = s.irqStat ∧
      ∀ p, p ≠ q → t.operand p = s.operand p

/-- R73: what each legal write does while the engine is BUSY. -/
def Obligations.WritesWhileBusy : Prop :=
  ∀ (s : State) (off : Offset) (v : Word) (es : List Event), s.rstN = true → s.seq = .busy → off.toNat % 4 = 0 →
    s.schedule = .transfer (.write off v 0b1111) :: es →
    (off = 0x008 ∨ (0x200 ≤ off.toNat ∧ off.toNat < 0xA00) →
      step s = .next { served s es (.writeDone off) with irqStat := s.irqStat ||| 0x00000002 }) ∧
    (off = 0x014 → v.getLsbD 0 = true →
      step s = .next { served s es (.writeDone off) with
        seq := .idle, cmd := 0, status := 0, info := 0, r := 0, irqStat := 0, work := .fresh }) ∧
    (off = 0x014 → v.getLsbD 0 = false → step s = .next (served s es (.writeDone off))) ∧
    (off = 0x018 → step s = .next { served s es (.writeDone off) with irqEn := v &&& 0x00000003 }) ∧
    (off = 0x01C →
      step s = .next { served s es (.writeDone off) with irqStat := s.irqStat &&& ~~~(v &&& 0x00000003) }) ∧
    (off ∈ [0x000, 0x004, 0x00C, 0x010] ∨ (0xA00 ≤ off.toNat ∧ off.toNat < 0xC00) →
      step s = .next (served s es (.writeDone off)))

/-- R68, R31, R32, R34, R39, R22: a write to a read-only register is answered without error and changes nothing. -/
def Obligations.ReadOnlyRegistersIgnoreWrites : Prop :=
  ∀ (s : State) (off : Offset) (v : Word) (es : List Event), s.rstN = true → off.toNat % 4 = 0 →
    off ∈ [0x000, 0x004, 0x00C, 0x010] ∨ (0xA00 ≤ off.toNat ∧ off.toNat < 0xC00) →
    s.schedule = .transfer (.write off v 0b1111) :: es → step s = .next (served s es (.writeDone off))

/-- R35, R96, R97: `WAIT` ends with the read that finds the engine IDLE; while it is BUSY the read is repeated, after
the engine's turn (the turn between two reads is the model's choice, log entry 9). -/
def Obligations.WaitEndsWhenIdle : Prop :=
  ∀ (s : State) (es : List Event), s.rstN = true → StatusCoherent s → s.schedule = progWait :: es →
    (s.seq = .idle → step s = .next (served s es (.readData 0x00C s.status))) ∧
    (s.seq = .busy → step s = .next (served s (.engine :: progWait :: es) (.readData 0x00C s.status)))

/-- R42, R43, R68: writes to IRQ_EN and IRQ_STAT, bit by bit, busy or not. -/
def Obligations.InterruptRegisterWrites : Prop :=
  ∀ (s : State) (v : Word) (es : List Event), s.rstN = true →
    (s.schedule = .transfer (.write 0x018 v 0b1111) :: es →
      ∃ e : Word, step s = .next { served s es (.writeDone 0x018) with irqEn := e } ∧
        ∀ j, e.getLsbD j = (decide (j < 2) && v.getLsbD j)) ∧
    (s.schedule = .transfer (.write 0x01C v 0b1111) :: es →
      ∃ p : Word, step s = .next { served s es (.writeDone 0x01C) with irqStat := p } ∧
        ∀ j, p.getLsbD j = (s.irqStat.getLsbD j && !(decide (j < 2) && v.getLsbD j)))

/-! ## Errors, interrupts and reset -/

/-- R152: INVALID_ARGUMENT is raised in exactly these cases. -/
def Obligations.InvalidArgumentExactly : Prop :=
  ∀ (i : Instr) (s : State), s.seq = .busy →
    (exec i s = .next (failed s 0x00000106) ↔
      match i with
      | .modmul => s.m = 0
      | .modexp => s.m = 0
      | .modinv => s.m = 0
      | .trialdiv => False
      | .mrround => s.a < 5 ∨ s.a % 2 = 0 ∨ s.x < 2 ∨ s.x + 2 > s.a
      | .mrtest rounds => rounds = 0)

/-- R153: with M at least 1, MODINV ends with NO_INVERSE exactly when `gcd(A, M) ≠ 1`. -/
def Obligations.NoInverseExactly : Prop :=
  ∀ s : State, 1 ≤ s.m → (exec .modinv s = .next (failed s 0x00000206) ↔ Nat.gcd s.a s.m ≠ 1)

/-- R108, R158: an engine's turn that ends with an error changes STATUS, DONE_IP and SEQ and nothing else. -/
def Obligations.ErrorsArePrecise : Prop :=
  ∀ s t : State, s.seq = .busy → StatusCoherent s → engineTurn s = .next t → errBit t.status = true →
    (∃ c ∈ [(1 : Nat), 2, 3], t.status = BitVec.ofNat 32 (c * 256 + 6)) ∧
    t = { s with status := t.status, irqStat := s.irqStat ||| 0x00000001, seq := .idle, work := .fresh }

/-- R22, R25, R107, R108: what no completion step of any command changes, that X is MRTEST's to write, and that R and
INFO wait for the completion. -/
def Obligations.CommandFrame : Prop :=
  ∀ (i : Instr) (s t : State), exec i s = .next t →
    (t.nwords = s.nwords ∧ t.a = s.a ∧ t.b = s.b ∧ t.m = s.m ∧ t.cmd = s.cmd ∧ t.irqEn = s.irqEn ∧ t.rstN = s.rstN ∧
      t.schedule = s.schedule ∧ t.trace = s.trace ∧
      t.irqStat &&& 0xFFFFFFFE = s.irqStat &&& 0xFFFFFFFE) ∧
    ((∀ rounds, i ≠ .mrtest rounds) → t.x = s.x ∧ t.rng = s.rng) ∧
    (errBit t.status = true ∨ t.seq = .busy → s.seq = .busy → errBit s.status = false →
      t.r = s.r ∧ t.x = s.x ∧ t.info = s.info)

/-- R160, R161: `irq` is the level of the enabled pending bits: a completion with DONE_IE set raises it, enabling a
pending source raises it, and clearing both pending bits lowers it. -/
def Obligations.InterruptLevel : Prop :=
  ∀ (s t : State),
    (irq s = true ↔ (s.irqStat.getLsbD 0 = true ∧ s.irqEn.getLsbD 0 = true) ∨
      (s.irqStat.getLsbD 1 = true ∧ s.irqEn.getLsbD 1 = true)) ∧
    (∀ i, exec i s = .next t → s.seq = .busy → t.seq = .idle → s.irqEn.getLsbD 0 = true → irq t = true) ∧
    (∀ es (v : Word), s.rstN = true → s.schedule = .transfer (.write 0x018 v 0b1111) :: es → step s = .next t →
      v.getLsbD 0 = true → s.irqStat.getLsbD 0 = true → irq t = true) ∧
    (∀ es (v : Word), s.rstN = true → s.schedule = .transfer (.write 0x01C v 0b1111) :: es → step s = .next t →
      v.getLsbD 0 = true → v.getLsbD 1 = true → irq t = false)

/-- R157, R161, R181: a transfer at the clock edge where the engine has its turn. With no command running it is the
transfer alone, so a command accepted there has no turn at that edge. With one running, legal word or not, the transfer
is judged against BUSY and the command's turn follows it (the joined event is the model's, log entry 12). -/
def Obligations.SameEdgeEvents : Prop :=
  (∀ (s : State) (tr : Transfer) (es : List Event), s.seq = .idle → s.schedule = .together tr :: es →
    step s = step { s with schedule := .transfer tr :: es }) ∧
  (∀ (s : State) (c : Word) (es : List Event), s.rstN = true → s.seq = .idle →
    s.schedule = .together (.write 0x008 c 0b1111) :: es →
    step s = .next { served s es (.writeDone 0x008) with
      cmd := c, seq := .busy, status := 0x00000001, work := .fresh }) ∧
  (∀ (s : State) (off : Offset) (es : List Event), s.rstN = true → s.seq = .busy →
    s.schedule = .together (.read off) :: es →
    ∃ p, step { s with schedule := .transfer (.read off) :: es } = .next (served s es p) ∧
      step s = commandTurn (served s es p)) ∧
  (∀ (s : State) (off : Offset) (v : Word) (strb : BitVec 4) (es : List Event), s.rstN = true → s.seq = .busy →
    s.schedule = .together (.write off v strb) :: es →
    (off.toNat % 4 ≠ 0 ∨ (0x020 ≤ off.toNat ∧ off.toNat ≤ 0x1FC) ∨ 0xC00 ≤ off.toNat ∨ strb ≠ 0b1111 →
      step s = commandTurn (served s es (.busError off))) ∧
    (off.toNat % 4 = 0 → strb = 0b1111 →
      (off = 0x014 → v.getLsbD 0 = true →
        step s = .next { served s es (.writeDone off) with
          seq := .idle, cmd := 0, status := 0, info := 0, r := 0, irqStat := 0, work := .fresh }) ∧
      (off = 0x014 → v.getLsbD 0 = false → step s = commandTurn (served s es (.writeDone off))) ∧
      (off = 0x008 ∨ (0x200 ≤ off.toNat ∧ off.toNat < 0xA00) →
        step s = commandTurn { served s es (.writeDone off) with irqStat := s.irqStat ||| 0x00000002 } ∧
        ∃ t, step s = .next t ∧ t.irqStat.getLsbD 1 = true) ∧
      (off = 0x018 → step s = commandTurn { served s es (.writeDone off) with irqEn := v &&& 0x00000003 }) ∧
      (off = 0x01C →
        step s = commandTurn { served s es (.writeDone off) with irqStat := s.irqStat &&& ~~~(v &&& 0x00000003) } ∧
        ∃ t, step s = .next t ∧ (t.seq = .idle → t.irqStat.getLsbD 0 = true)) ∧
      (off ∈ [0x000, 0x004, 0x00C, 0x010] ∨ (0xA00 ≤ off.toNat ∧ off.toNat < 0xC00) →
        step s = commandTurn (served s es (.writeDone off)))))

/-- R178: soft reset, busy or not. -/
def Obligations.SoftReset : Prop :=
  ∀ (s : State) (v : Word) (es : List Event), s.rstN = true → v.getLsbD 0 = true →
    s.schedule = .transfer (.write 0x014 v 0b1111) :: es →
    ∃ t, step s = .next t ∧ rngReady t = false ∧ irq t = false ∧
      t = { s with seq := .idle, cmd := 0, status := 0, info := 0, r := 0, irqStat := 0, work := .fresh,
                   schedule := es, trace := s.trace ++ [.writeDone 0x014] }

/-- R176, R51: power-on reset clears every register, the outputs are 0, no command completes while it lasts, and the
release changes no register. -/
def Obligations.PowerOnReset : Prop :=
  ∀ (s : State) (es : List Event),
    (s.schedule = .resetAssert :: es →
      ∃ t, step s = .next t ∧ irq t = false ∧ rngReady t = false ∧
        t = { s with a := 0, b := 0, m := 0, x := 0, r := 0, cmd := 0, status := 0, info := 0, irqEn := 0,
                     irqStat := 0, seq := .idle, work := .fresh, rstN := false, schedule := es }) ∧
    (s.rstN = false → s.schedule = .engine :: es → step s = .next { s with schedule := es }) ∧
    (s.schedule = .resetRelease :: es → step s = .next { s with rstN := true, schedule := es })

/-- R177: a transfer during reset, whatever its offset and strobes, has no effect and answers 0 without error. -/
def Obligations.TransfersDuringReset : Prop :=
  ∀ (s : State) (off : Offset) (v : Word) (strb : BitVec 4) (es : List Event), s.rstN = false →
    (s.schedule = .transfer (.read off) :: es → step s = .next (served s es (.readData off 0))) ∧
    (s.schedule = .transfer (.write off v strb) :: es → step s = .next (served s es (.resetWrite off))) ∧
    (∀ p ∈ [Response.readData off 0, .resetWrite off], p.prdata = some 0 ∧ p.pslverr = false)

/-- R51: the registers after power-on reset, for an instance of any width; `State.reset` is one of them (of the width
log entry 1 names). -/
def Obligations.ResetValues : Prop :=
  (∃ n, Config.ValidNwords n ∧ State.reset = State.powerOn n) ∧
  ∀ n, Config.ValidNwords n →
    (State.powerOn n).nwords = n ∧
    (∀ q, (State.powerOn n).operand q = 0) ∧
    readReg .id (State.powerOn n) = 0x4D414531 ∧
    readReg .param (State.powerOn n) = BitVec.ofNat 32 (0x1D0A0000 + n) ∧
    (∀ t ∈ [Target.cmd, .status, .info, .ctrl, .irqEn, .irqStat], readReg t (State.powerOn n) = 0) ∧
    (State.powerOn n).seq = .idle ∧ irq (State.powerOn n) = false ∧ rngReady (State.powerOn n) = false

/-! ## Modular arithmetic -/

/-- R110: MODMUL, word 0x00000001, commits the product modulo M, the same for A and B reduced first; with M = 0 it
ends with INVALID_ARGUMENT. -/
def Obligations.ModmulResult : Prop :=
  decode 0x00000001 = .ok .modmul ∧
  ∀ s : State,
    (0 < s.m → exec .modmul s = .next (committed s (s.a * s.b % s.m) s.x 0x00000002 0) ∧
      s.a * s.b % s.m < s.m ∧ s.a * s.b % s.m = (s.a % s.m) * (s.b % s.m) % s.m) ∧
    (s.m = 0 → exec .modmul s = .next (failed s 0x00000106))

/-- R113: MODEXP commits `(A^B) mod M` over the integers. -/
def Obligations.ModexpResult : Prop :=
  ∀ s : State, 0 < s.m → exec .modexp s = .next (committed s (s.a ^ s.b % s.m) s.x 0x00000002 0)

/-- R114: the three laws of MODEXP, as runs of the commands. -/
def Obligations.ModexpLaws : Prop :=
  ∀ (s : State) (g p e₁ e₂ : Nat), 0 < p →
    (∃ t u t' u', exec .modexp { s with a := g, b := e₁, m := p } = .next t ∧
      exec .modexp { s with a := t.r, b := e₂, m := p } = .next u ∧
      exec .modexp { s with a := g, b := e₂, m := p } = .next t' ∧
      exec .modexp { s with a := t'.r, b := e₁, m := p } = .next u' ∧ u.r = u'.r) ∧
    (∃ t u v w, exec .modexp { s with a := g, b := e₁, m := p } = .next t ∧
      exec .modexp { s with a := g, b := e₂, m := p } = .next u ∧
      exec .modexp { s with a := g, b := e₁ + e₂, m := p } = .next v ∧
      exec .modmul { s with a := t.r, b := u.r, m := p } = .next w ∧ v.r = w.r) ∧
    (∃ t u, exec .modexp { s with a := g, b := 2, m := p } = .next t ∧
      exec .modmul { s with a := g, b := g, m := p } = .next u ∧ t.r = u.r)

/-- R119: with `gcd(A, M) = 1`, MODINV commits the one inverse of A in `[0, M)`; otherwise it ends with NO_INVERSE
and leaves R. -/
def Obligations.ModinvResult : Prop :=
  ∀ s : State, 1 ≤ s.m →
    (Nat.gcd s.a s.m = 1 →
      ∃ x, x < s.m ∧ s.a * x % s.m = 1 % s.m ∧ (∀ y, y < s.m → s.a * y % s.m = 1 % s.m → y = x) ∧
        exec .modinv s = .next (committed s x s.x 0x00000002 0)) ∧
    (Nat.gcd s.a s.m ≠ 1 → exec .modinv s = .next (failed s 0x00000206))

/-! ## Primality -/

/-- R131: TRIALDIV, case by case. -/
def Obligations.TrialdivResult : Prop :=
  ∀ s : State,
    exec .trialdiv s = .next (
      if s.a < 2 then committed s 0 s.x 0x00000002 0x00000001
      else if s.a ∈ [2, 3, 5, 7, 11, 13, 17, 19, 23, 29] then committed s 1 s.x 0x0000000A 0x00000002
      else if ∃ p ∈ ([2, 3, 5, 7, 11, 13, 17, 19, 23, 29] : List Nat), p ∣ s.a then
        committed s 0 s.x 0x00000002 0x00000003
      else committed s 0 s.x 0x00000002 0x00000004)

/-- R128: what a number that passes the prefilter is: odd, at least 31, with `A - 1` even and at least 30, its
exponent of 2 at least 1, at least 28 witnesses in `[2, A - 2]`, and no prime factor below 31. -/
def Obligations.PrefilterSurvivors : Prop :=
  ∀ s t : State, exec .trialdiv s = .next t → t.info = 0x00000004 →
    s.a % 2 = 1 ∧ 31 ≤ s.a ∧ 30 ≤ s.a - 1 ∧ (s.a - 1) % 2 = 0 ∧
      (∀ d e, s.a - 1 = d * 2 ^ e → d % 2 = 1 → 1 ≤ e) ∧ 28 ≤ (Finset.Icc 2 (s.a - 2)).card ∧
      ∀ p, p.Prime → p < 31 → ¬ p ∣ s.a

/-- R132: MRROUND, word 0x00000005, commits whether the round of R130 passes, with the exponent of 2 in `A - 1`; it
ends with INVALID_ARGUMENT where A or X is outside its range. -/
def Obligations.MrroundResult : Prop :=
  decode 0x00000005 = .ok .mrround ∧
  ∀ s : State,
    (s.a < 5 ∨ s.a % 2 = 0 ∨ s.x < 2 ∨ s.a < s.x + 2 → exec .mrround s = .next (failed s 0x00000106)) ∧
    (∀ d e, 5 ≤ s.a → s.a % 2 = 1 → 2 ≤ s.x → s.x + 2 ≤ s.a → s.a - 1 = d * 2 ^ e → d % 2 = 1 →
      ((s.x ^ d % s.a = 1 ∨ ∃ i < e, s.x ^ (d * 2 ^ i) % s.a = s.a - 1) →
        exec .mrround s = .next (committed s 1 s.x 0x0000000A (BitVec.ofNat 32 (e * 65536 + 0x106)))) ∧
      (¬ (s.x ^ d % s.a = 1 ∨ ∃ i < e, s.x ^ (d * 2 ^ i) % s.a = s.a - 1) →
        exec .mrround s = .next (committed s 0 s.x 0x00000002 (BitVec.ofNat 32 (e * 65536 + 0x105)))))

/-- R133: where the prefilter decides, MRTEST completes at once and draws nothing. -/
def Obligations.MrtestDecidedByPrefilter : Prop :=
  ∀ (s : State) (rounds : Nat), 1 ≤ rounds → ¬ Undecided s.a →
    exec (.mrtest rounds) s = .next (
      if s.a < 2 then committed s 0 s.x 0x00000002 0x00000001
      else if s.a ∈ [2, 3, 5, 7, 11, 13, 17, 19, 23, 29] then committed s 1 s.x 0x0000000A 0x00000002
      else committed s 0 s.x 0x00000002 0x00000003)

/-- R133, R136: an MRTEST of an undecided number, all of whose drawn witnesses pass, completes with 1, takes exactly
their words, and leaves the last witness in X. -/
def Obligations.MrtestAllRoundsPass : Prop :=
  ∀ (s : State) (d e : Nat) (front : List Nat) (a : Nat) (rest : List Word),
    Undecided s.a → s.a - 1 = d * 2 ^ e → d % 2 = 1 → s.work = .fresh → front.length + 1 ≤ 255 →
    (∀ w ∈ front ++ [a], 2 ≤ w ∧ w + 2 ≤ s.a ∧ RoundPasses s.a w) →
    s.rng = witnessWords s.a (front ++ [a]) ++ rest →
    exec (.mrtest (front.length + 1)) s =
      .next { committed s 1 a 0x0000000A (BitVec.ofNat 32 (e * 65536 + (front.length + 1) * 256 + 6)) with
        rng := rest }

/-- R133, R136: an MRTEST of an undecided number stops with 0 at the first witness that fails, takes no word after it,
and leaves that witness in X. -/
def Obligations.MrtestStopsAtFailingRound : Prop :=
  ∀ (s : State) (d e rounds : Nat) (front : List Nat) (a : Nat) (rest : List Word),
    Undecided s.a → s.a - 1 = d * 2 ^ e → d % 2 = 1 → s.work = .fresh → front.length < rounds → rounds ≤ 255 →
    (∀ w ∈ front, 2 ≤ w ∧ w + 2 ≤ s.a ∧ RoundPasses s.a w) → 2 ≤ a → a + 2 ≤ s.a → ¬ RoundPasses s.a a →
    s.rng = witnessWords s.a (front ++ [a]) ++ rest →
    exec (.mrtest rounds) s =
      .next { committed s 0 a 0x00000002 (BitVec.ofNat 32 (e * 65536 + (front.length + 1) * 256 + 5)) with
        rng := rest }

/-- R136: one sampling attempt takes `(L + 31) div 32` words, keeps `L = bitlength(n - 4)` bits, and is discarded where
the value exceeds `n - 4`. -/
def Obligations.SamplingAttempt : Prop :=
  ∀ (n : Nat) (ws rest : List Word), 31 ≤ n → ws.length = (Nat.size (n - 4) + 31) / 32 →
    drawWitness n [] (ws ++ rest) =
      if valueOfWords ws % 2 ^ Nat.size (n - 4) ≤ n - 4
      then .drawn (valueOfWords ws % 2 ^ Nat.size (n - 4) + 2) rest
      else drawWitness n [] rest

/-- R135, R25: the witness an MRTEST of an undecided number leaves in X lies in `[2, n - 2]`. -/
def Obligations.WitnessInRange : Prop :=
  ∀ (s t : State) (rounds : Nat), s.seq = .busy → 1 ≤ rounds → Undecided s.a → exec (.mrtest rounds) s = .next t →
    t.seq = .idle → 2 ≤ t.x ∧ t.x ≤ s.a - 2

/-- R137: an MRTEST that is short of words stays BUSY, and nothing a host can read has changed; with no word offered
nothing changes at all. -/
def Obligations.StarvedMrtestStaysBusy : Prop :=
  ∀ (s : State) (rounds : Nat), s.seq = .busy → 1 ≤ rounds → Undecided s.a →
    (s.rng = [] → exec (.mrtest rounds) s = .next s) ∧
    (∀ t, exec (.mrtest rounds) s = .next t → t.seq ≠ .idle → t = { s with rng := [], work := t.work })

/-- R109, R137: words offered in two parts lead an MRTEST to the same completion as the same words offered at once. -/
def Obligations.MrtestResumes : Prop :=
  ∀ (s t : State) (rounds : Nat) (first second : List Word), s.seq = .busy →
    exec (.mrtest rounds) { s with rng := first } = .next t → t.seq = .busy →
    exec (.mrtest rounds) { t with rng := second } = exec (.mrtest rounds) { s with rng := first ++ second }

/-- R134 item 1: for a prime, an MRTEST that completes answers 1, whatever words the random port offered. For a round
count above 255, which no command word has, RDONE is its low eight bits by the model's choice (log entry 18). -/
def Obligations.PrimeIsNeverRejected : Prop :=
  ∀ (s t : State) (rounds : Nat), s.seq = .busy → 1 ≤ rounds → s.a.Prime → exec (.mrtest rounds) s = .next t →
    t.seq = .idle →
    t.r = 1 ∧ t.status = 0x0000000A ∧
      (t.info = 0x00000002 ∨ (classField t.info = 6 ∧ rdoneField t.info = BitVec.ofNat 8 rounds))

/-- R134 item 1: a prime passes an MRROUND with every legal witness. -/
def Obligations.PrimePassesEveryRound : Prop :=
  ∀ s : State, s.a.Prime → 5 ≤ s.a → 2 ≤ s.x → s.x + 2 ≤ s.a →
    ∃ e, exec .mrround s = .next (committed s 1 s.x 0x0000000A (BitVec.ofNat 32 (e * 65536 + 0x106)))

/-- R138: MRTEST is the prefilter followed by rounds: it ends as TRIALDIV does where TRIALDIV decides, and otherwise
answers 1 exactly when MRROUND passes for each of its witnesses, for words of which no attempt is discarded. -/
def Obligations.MrtestIsTrialdivThenRounds : Prop :=
  ∀ (s : State) (witnesses : List Nat) (rest : List Word), s.seq = .busy → s.work = .fresh → witnesses ≠ [] →
    (∀ t, exec .trialdiv s = .next t → t.info ≠ 0x00000004 → exec (.mrtest witnesses.length) s = .next t) ∧
    (∀ t, exec .trialdiv s = .next t → t.info = 0x00000004 → (∀ w ∈ witnesses, 2 ≤ w ∧ w + 2 ≤ s.a) →
      s.rng = witnessWords s.a witnesses ++ rest →
      ∃ u, exec (.mrtest witnesses.length) s = .next u ∧ u.seq = .idle ∧ (u.r = 0 ∨ u.r = 1) ∧
        (u.r = 1 ↔ ∀ w ∈ witnesses, ∃ v, exec .mrround { s with x := w } = .next v ∧ v.r = 1))

/-! ## Invariants -/

/-- R6, R23, R24: a W-bit register never holds a value at or above `2^W`, and no step changes the width. -/
def Obligations.RegistersStayInRange : Prop :=
  ∀ s t : State, RegistersInRange s → step s = .next t → RegistersInRange t ∧ t.nwords = s.nwords

/-- R34, R35: BUSY is SEQ, and the fields of STATUS hold together, at every step. -/
def Obligations.StatusStaysCoherent : Prop := ∀ s t : State, StatusCoherent s → step s = .next t → StatusCoherent t

/-- R44: the reserved bits of IRQ_EN and IRQ_STAT stay 0. -/
def Obligations.IrqReservedBitsStayZero : Prop :=
  ∀ s t : State, IrqReservedZero s → step s = .next t → IrqReservedZero t

/-- R24, R34, R39, R40, R47, R176: every step keeps the machine in its legal states. -/
def Obligations.LegalStatesAreKept : Prop := ∀ s t : State, Inv s → step s = .next t → Inv t

/-- R51: the state after power-on reset is legal, for an instance of any width. -/
def Obligations.ResetIsLegal : Prop := Inv State.reset ∧ ∀ n, Config.ValidNwords n → Inv (State.powerOn n)

/-- R44: in a legal state the reserved fields of CMD's read-back, STATUS, INFO, IRQ_EN and IRQ_STAT read 0, and CTRL reads
0 (for CMD see log entry 21). -/
def Obligations.ReservedFieldsReadZero : Prop :=
  ∀ s : State, Inv s →
    (∀ j, (4 ≤ j ∧ j < 8) ∨ 12 ≤ j → (readReg .status s).getLsbD j = false) ∧
    (∀ j, 4 ≤ j ∧ j < 8 → (readReg .info s).getLsbD j = false) ∧
    (∀ j, 2 ≤ j → (readReg .irqEn s).getLsbD j = false ∧ (readReg .irqStat s).getLsbD j = false) ∧
    readReg .ctrl s = 0 ∧
    (∀ j, 16 ≤ j → (readReg .cmd s).getLsbD j = false)
end

