-- ==== Sys2Proof/Laws/Arith.lean ====
section
/-! SUPPORT. Small facts about the shared operations on numbers: a word of a value is written and read bit by bit, and
the loop bounds of Machine/Arith.lean are long enough. -/

namespace Sys2Proof.Machine

/-- `setWord` replaces bits `[32k+31 : 32k]` and no other (spec/20_memory.md R72). -/
theorem setWord_testBit (v k : Nat) (w : Word) (j : Nat) :
    (setWord v k w).testBit j =
      if 32 * k ≤ j ∧ j < 32 * k + 32 then w.getLsbD (j - 32 * k) else v.testBit j := by
  have split : setWord v k w =
      2 ^ (32 * k) * (2 ^ 32 * (v / 2 ^ (32 * k + 32)) + w.toNat) + v % 2 ^ (32 * k) := by
    unfold setWord
    rw [show 32 * (k + 1) = 32 * k + 32 by ring, pow_add]; ring
  rw [split, Nat.testBit_two_pow_mul_add _ (Nat.mod_lt _ (by positivity))]
  by_cases h : j < 32 * k
  · rw [if_pos h, if_neg (by omega), Nat.testBit_mod_two_pow]; simp [h]
  · rw [if_neg h, Nat.testBit_two_pow_mul_add _ w.isLt]
    by_cases h' : j - 32 * k < 32
    · rw [if_pos h', if_pos (by omega)]; rfl
    · rw [if_neg h', if_neg (by omega), Nat.testBit_div_two_pow,
        show j - 32 * k - 32 + (32 * k + 32) = j by omega]

/-- `getWord` reads bits `[32k+31 : 32k]` (spec/10_state.md R27). -/
theorem getWord_getLsbD (v k j : Nat) : (getWord v k).getLsbD j = (decide (j < 32) && v.testBit (32 * k + j)) := by
  simp [getWord, BitVec.getLsbD_ofNat, Nat.testBit_div_two_pow, add_comm]

/-- A value below `2^W` stays below it when one of its words is written. -/
theorem setWord_lt {v k n : Nat} {w : Word} (hv : v < 2 ^ (32 * n)) (hk : k < n) :
    setWord v k w < 2 ^ (32 * n) := by
  apply Nat.lt_pow_two_of_testBit
  intro i hi
  rw [setWord_testBit, if_neg (by omega)]
  exact Nat.testBit_lt_two_pow (lt_of_lt_of_le hv (Nat.pow_le_pow_right (by norm_num) hi))

/-- `bitlength` is long enough to count the bits of its argument (spec/00_scope.md R14). -/
theorem lt_two_pow_bitlength (v : Nat) : v < 2 ^ bitlength v := by
  unfold bitlength
  split
  · simp_all
  · exact Nat.lt_log2_self

end Sys2Proof.Machine
end

