-- ==== Sys2Proof/Laws/Algorithms.lean ====
section
/-! SUPPORT. What each algorithm of Machine/Arith.lean computes, said once over the integers. -/

namespace Sys2Proof.Machine

theorem expLoop_eq (m : Nat) : ∀ fuel acc base e, e < 2 ^ fuel → acc % m = acc →
    expLoop m fuel acc base e = acc * base ^ e % m := by
  intro fuel
  induction fuel with
  | zero =>
    intro acc base e h ha
    have he : e = 0 := by simpa using h
    subst he
    simp [expLoop, ha]
  | succ f ih =>
    intro acc base e h ha
    unfold expLoop
    split
    · rename_i h0; subst h0; simp [ha]
    · rw [ih _ _ _ (by rw [pow_succ] at h; omega) (by split <;> simp [ha])]
      have hb : (base * base % m) ^ (e / 2) ≡ base ^ (2 * (e / 2)) [MOD m] := by
        rw [pow_mul, pow_two]; exact (Nat.mod_modEq _ _).pow _
      split
      · rename_i h1
        have he : base ^ e = base * base ^ (2 * (e / 2)) := by
          conv_lhs => rw [← Nat.div_add_mod e 2, h1]
          rw [pow_succ]; ring
        rw [he]
        calc acc * base % m * (base * base % m) ^ (e / 2)
            ≡ (acc * base) * base ^ (2 * (e / 2)) [MOD m] := (Nat.mod_modEq _ _).mul hb
          _ = acc * (base * base ^ (2 * (e / 2))) := by ring
      · rename_i h1
        have he : base ^ e = base ^ (2 * (e / 2)) := by
          conv_lhs => rw [← Nat.div_add_mod e 2, show e % 2 = 0 by omega]
          simp
        rw [he]
        exact (Nat.ModEq.refl _).mul hb

/-- Square-and-multiply computes the power (spec/40_modarith.md R113). -/
theorem modPow_eq (b e m : Nat) : modPow b e m = b ^ e % m := by
  unfold modPow
  rw [expLoop_eq _ _ _ _ _ (lt_two_pow_bitlength e) (by simp)]
  calc 1 % m * (b % m) ^ e ≡ 1 * b ^ e [MOD m] := (Nat.mod_modEq _ _).mul ((Nat.mod_modEq _ _).pow _)
    _ = b ^ e := by ring

theorem eeaLoop_spec (m a : Nat) : ∀ (fuel r0 r1 : Nat) (t0 t1 : Int), r1 ≤ fuel →
    (r0 : Int) ≡ t0 * a [ZMOD m] → (r1 : Int) ≡ t1 * a [ZMOD m] →
    (eeaLoop fuel r0 r1 t0 t1).1 = Nat.gcd r0 r1 ∧
      ((eeaLoop fuel r0 r1 t0 t1).1 : Int) ≡ (eeaLoop fuel r0 r1 t0 t1).2 * a [ZMOD m] := by
  intro fuel
  induction fuel with
  | zero =>
    intro r0 r1 t0 t1 h h0 h1
    have hr : r1 = 0 := by omega
    subst hr
    simp [eeaLoop, h0]
  | succ f ih =>
    intro r0 r1 t0 t1 h h0 h1
    unfold eeaLoop
    split
    · rename_i h; subst h; simp [h0]
    · rename_i hne
      have hdm := Nat.div_add_mod r0 r1
      rw [show r0 - r0 / r1 * r1 = r0 % r1 by rw [mul_comm] at hdm; omega]
      have hlt := Nat.mod_lt r0 (Nat.pos_of_ne_zero hne)
      have h2 : ((r0 % r1 : Nat) : Int) ≡ (t0 - (r0 / r1 : Nat) * t1) * a [ZMOD m] := by
        have hi : (r0 : Int) = r1 * (r0 / r1) + r0 % r1 := by exact_mod_cast hdm.symm
        rw [show ((r0 % r1 : Nat) : Int) = r0 - (r0 / r1 : Nat) * r1 by push_cast; linarith, sub_mul, mul_assoc]
        exact h0.sub ((Int.ModEq.refl _).mul h1)
      have next := ih r1 (r0 % r1) t1 _ (by omega) h1 h2
      exact ⟨by rw [next.1, Nat.gcd_comm r1, ← Nat.gcd_rec, Nat.gcd_comm], next.2⟩

/-- Extended Euclid answers the gcd and a Bézout coefficient of `a` (spec/40_modarith.md R117). -/
theorem eea_spec (m a : Nat) : (eea m a).1 = Nat.gcd m a ∧ ((eea m a).1 : Int) ≡ (eea m a).2 * a [ZMOD m] := by
  apply eeaLoop_spec _ _ _ _ _ _ _ le_rfl
  · simp [Int.modEq_iff_dvd]
  · simp

/-- The prefilter passes exactly the undecided numbers (spec/41_primality.md R127). -/
theorem prefilter_pass_iff (n : Nat) : prefilter n = .pass ↔ Undecided n := by
  unfold prefilter Config.smallPrimes Undecided
  constructor
  · intro h
    split_ifs at h with h1 h2 h3
    exact ⟨by omega, fun p hp hm => h3 ⟨p, hp, hm⟩⟩
  · rintro ⟨h1, h2⟩
    rw [if_neg (by omega), if_neg (fun hm => h2 _ hm (Nat.mod_self n)), if_neg]
    rintro ⟨p, hp, hm⟩
    exact h2 p hp hm

theorem v2Loop_spec : ∀ fuel v, v < 2 ^ fuel → 0 < v →
    2 ^ v2Loop fuel v ∣ v ∧ ¬ 2 ∣ v / 2 ^ v2Loop fuel v := by
  intro fuel
  induction fuel with
  | zero => intro v h h0; simp at h; omega
  | succ f ih =>
    intro v h h0
    unfold v2Loop
    split
    · obtain ⟨h1, h2⟩ := ih (v / 2) (by rw [pow_succ] at h; omega) (by omega)
      rw [pow_succ, mul_comm, ← Nat.div_div_eq_div_mul]
      refine ⟨?_, h2⟩
      conv_rhs => rw [show v = 2 * (v / 2) by omega]
      exact Nat.mul_dvd_mul_left 2 h1
    · simp; omega

theorem two_pow_factor_unique {N q c d e : Nat} (h : N = d * 2 ^ e) (hd : d % 2 = 1) (hc : N = 2 ^ q * c)
    (hodd : ¬ 2 ∣ c) : e = q ∧ d = c := by
  have heq : d * 2 ^ e = 2 ^ q * c := by rw [← h, hc]
  have he : e = q := by
    rcases lt_trichotomy e q with hlt | heq' | hgt
    · obtain ⟨k, hk⟩ := Nat.exists_eq_add_of_lt hlt
      rw [hk, show 2 ^ (e + k + 1) = 2 ^ e * (2 * 2 ^ k) by ring, mul_comm d, mul_assoc] at heq
      have := Nat.eq_of_mul_eq_mul_left (by positivity) heq
      rw [mul_assoc] at this; omega
    · exact heq'
    · obtain ⟨k, hk⟩ := Nat.exists_eq_add_of_lt hgt
      rw [hk, show d * 2 ^ (q + k + 1) = 2 ^ q * (2 * (d * 2 ^ k)) by ring] at heq
      exact absurd ⟨_, (Nat.eq_of_mul_eq_mul_left (by positivity) heq).symm⟩ hodd
  subst he
  rw [mul_comm] at heq
  exact ⟨rfl, Nat.eq_of_mul_eq_mul_left (by positivity) heq⟩

/-- `decomp n` is the only decomposition of `n - 1` (spec/41_primality.md R129). -/
theorem decomp_eq {n d e : Nat} (hn : 3 ≤ n) (h : n - 1 = d * 2 ^ e) (hd : d % 2 = 1) : decomp n = (d, e) := by
  obtain ⟨h1, h2⟩ := v2Loop_spec _ _ (lt_two_pow_bitlength (n - 1)) (by omega)
  change 2 ^ v2 (n - 1) ∣ n - 1 at h1
  obtain ⟨he, hd'⟩ := two_pow_factor_unique h hd (Nat.mul_div_cancel' h1).symm h2
  rw [he, hd']; rfl

/-- Every `n - 1` has one (spec/41_primality.md R129). -/
theorem decomp_exists {n : Nat} (hn : 3 ≤ n) : ∃ d e, n - 1 = d * 2 ^ e ∧ d % 2 = 1 := by
  obtain ⟨h1, h2⟩ := v2Loop_spec _ _ (lt_two_pow_bitlength (n - 1)) (by omega)
  exact ⟨_, _, (Nat.div_mul_cancel h1).symm, by omega⟩

theorem squareLoop_spec (n a : Nat) : ∀ k x j, x = a ^ j % n →
    (squareLoop n k x = true ↔ ∃ i, i < k ∧ a ^ (j * 2 ^ (i + 1)) % n = n - 1) := by
  intro k
  induction k with
  | zero => intro x j h; simp [squareLoop]
  | succ k ih =>
    intro x j hx
    have hsq : x * x % n = a ^ (j * 2) % n := by rw [hx, ← Nat.mul_mod, pow_mul, pow_two]
    unfold squareLoop
    split
    · rename_i h
      simp only [true_iff]
      exact ⟨0, by omega, by rw [← h, hsq]; simp⟩
    · rename_i h
      rw [ih _ (j * 2) hsq]
      constructor
      · rintro ⟨i, hi, h'⟩; exact ⟨i + 1, by omega, by rw [← h']; congr 2; ring⟩
      · rintro ⟨i, hi, h'⟩
        cases i with
        | zero => exact absurd (by rw [hsq, ← h']; simp) h
        | succ i => exact ⟨i, by omega, by rw [← h']; congr 2; ring⟩

/-- A round passes where `a^d` is 1 or one of its first `e` squarings gives `n - 1` (spec/41_primality.md R130). -/
theorem mrRound_spec {n a d e : Nat} (hn : 3 ≤ n) (ho : n % 2 = 1) (h : n - 1 = d * 2 ^ e) (hd : d % 2 = 1) :
    mrRound n a = true ↔ (a ^ d % n = 1 ∨ ∃ i < e, a ^ (d * 2 ^ i) % n = n - 1) := by
  have he : 0 < e := by
    rcases Nat.eq_zero_or_pos e with rfl | h'
    · omega
    · exact h'
  simp only [mrRound, decomp_eq hn h hd, modPow_eq]
  split
  · rename_i hx
    simp only [true_iff]
    exact hx.imp_right fun hx => ⟨0, he, by simpa using hx⟩
  · rename_i hx
    rw [not_or] at hx
    rw [squareLoop_spec n a _ _ d rfl]
    constructor
    · rintro ⟨i, hi, h'⟩; exact .inr ⟨i + 1, by omega, h'⟩
    · rintro (h' | ⟨i, hi, h'⟩)
      · exact absurd h' hx.1
      · cases i with
        | zero => exact absurd (by simpa using h') hx.2
        | succ i => exact ⟨i, by omega, h'⟩

/-- A drawn witness lies in `[2, n - 2]` (spec/41_primality.md R135). -/
theorem drawWitness_range {n : Nat} (hn : 4 ≤ n) : ∀ words buffer a rest,
    drawWitness n buffer words = .drawn a rest → 2 ≤ a ∧ a + 2 ≤ n := by
  intro words
  induction words with
  | nil => intro buffer a rest h; simp [drawWitness] at h
  | cons w ws ih =>
    intro buffer a rest h
    rw [drawWitness] at h
    simp only at h
    split_ifs at h with h1 h2
    · exact ih _ _ _ h
    · injection h with h3 h4; omega
    · exact ih _ _ _ h

/-- The value of a number's words is the number, cut to that many words (spec/10_state.md R28). -/
theorem valueOfWords_wordsOfValue (v : Nat) : ∀ k, valueOfWords (wordsOfValue k v) = v % 2 ^ (32 * k) := by
  intro k
  induction k generalizing v with
  | zero => simp [wordsOfValue, valueOfWords, Nat.mod_one]
  | succ k ih =>
    rw [wordsOfValue, valueOfWords, ih, BitVec.toNat_ofNat, show 32 * (k + 1) = 32 + 32 * k by ring, pow_add,
      Nat.mod_mul]

end Sys2Proof.Machine
end

