-- ==== Sys2Proof/Laws/State.lean ====
section
/-! SUPPORT. What each shared operation leaves in each field of the state: one lemma a field, true by unfolding the
operation once. -/

namespace Sys2Proof.Machine

@[simp] theorem accept_nwords (c : Word) (s : State) : (accept c s).nwords = s.nwords := rfl
@[simp] theorem accept_a (c : Word) (s : State) : (accept c s).a = s.a := rfl
@[simp] theorem accept_b (c : Word) (s : State) : (accept c s).b = s.b := rfl
@[simp] theorem accept_m (c : Word) (s : State) : (accept c s).m = s.m := rfl
@[simp] theorem accept_x (c : Word) (s : State) : (accept c s).x = s.x := rfl
@[simp] theorem accept_r (c : Word) (s : State) : (accept c s).r = s.r := rfl
@[simp] theorem accept_cmd (c : Word) (s : State) : (accept c s).cmd = c := rfl
@[simp] theorem accept_status (c : Word) (s : State) : (accept c s).status = statusBusy := rfl
@[simp] theorem accept_info (c : Word) (s : State) : (accept c s).info = s.info := rfl
@[simp] theorem accept_irqEn (c : Word) (s : State) : (accept c s).irqEn = s.irqEn := rfl
@[simp] theorem accept_irqStat (c : Word) (s : State) : (accept c s).irqStat = s.irqStat := rfl
@[simp] theorem accept_seq (c : Word) (s : State) : (accept c s).seq = .busy := rfl
@[simp] theorem accept_work (c : Word) (s : State) : (accept c s).work = .fresh := rfl
@[simp] theorem accept_rstN (c : Word) (s : State) : (accept c s).rstN = s.rstN := rfl
@[simp] theorem accept_rng (c : Word) (s : State) : (accept c s).rng = s.rng := rfl
@[simp] theorem accept_schedule (c : Word) (s : State) : (accept c s).schedule = s.schedule := rfl
@[simp] theorem accept_trace (c : Word) (s : State) : (accept c s).trace = s.trace := rfl

@[simp] theorem complete_nwords (r : Nat) (x : Option Nat) (info : Word) (result : Bool) (s : State) : (complete r x info result s).nwords = s.nwords := rfl
@[simp] theorem complete_a (r : Nat) (x : Option Nat) (info : Word) (result : Bool) (s : State) : (complete r x info result s).a = s.a := rfl
@[simp] theorem complete_b (r : Nat) (x : Option Nat) (info : Word) (result : Bool) (s : State) : (complete r x info result s).b = s.b := rfl
@[simp] theorem complete_m (r : Nat) (x : Option Nat) (info : Word) (result : Bool) (s : State) : (complete r x info result s).m = s.m := rfl
@[simp] theorem complete_x (r : Nat) (x : Option Nat) (info : Word) (result : Bool) (s : State) : (complete r x info result s).x = x.getD s.x := rfl
@[simp] theorem complete_r (r : Nat) (x : Option Nat) (info : Word) (result : Bool) (s : State) : (complete r x info result s).r = r := rfl
@[simp] theorem complete_cmd (r : Nat) (x : Option Nat) (info : Word) (result : Bool) (s : State) : (complete r x info result s).cmd = s.cmd := rfl
@[simp] theorem complete_status (r : Nat) (x : Option Nat) (info : Word) (result : Bool) (s : State) : (complete r x info result s).status = statusDone result := rfl
@[simp] theorem complete_info (r : Nat) (x : Option Nat) (info : Word) (result : Bool) (s : State) : (complete r x info result s).info = info := rfl
@[simp] theorem complete_irqEn (r : Nat) (x : Option Nat) (info : Word) (result : Bool) (s : State) : (complete r x info result s).irqEn = s.irqEn := rfl
@[simp] theorem complete_irqStat (r : Nat) (x : Option Nat) (info : Word) (result : Bool) (s : State) : (complete r x info result s).irqStat = s.irqStat ||| doneIp := rfl
@[simp] theorem complete_seq (r : Nat) (x : Option Nat) (info : Word) (result : Bool) (s : State) : (complete r x info result s).seq = .idle := rfl
@[simp] theorem complete_work (r : Nat) (x : Option Nat) (info : Word) (result : Bool) (s : State) : (complete r x info result s).work = .fresh := rfl
@[simp] theorem complete_rstN (r : Nat) (x : Option Nat) (info : Word) (result : Bool) (s : State) : (complete r x info result s).rstN = s.rstN := rfl
@[simp] theorem complete_rng (r : Nat) (x : Option Nat) (info : Word) (result : Bool) (s : State) : (complete r x info result s).rng = s.rng := rfl
@[simp] theorem complete_schedule (r : Nat) (x : Option Nat) (info : Word) (result : Bool) (s : State) : (complete r x info result s).schedule = s.schedule := rfl
@[simp] theorem complete_trace (r : Nat) (x : Option Nat) (info : Word) (result : Bool) (s : State) : (complete r x info result s).trace = s.trace := rfl

@[simp] theorem raiseError_nwords (e : ErrCode) (s : State) : (raiseError e s).nwords = s.nwords := rfl
@[simp] theorem raiseError_a (e : ErrCode) (s : State) : (raiseError e s).a = s.a := rfl
@[simp] theorem raiseError_b (e : ErrCode) (s : State) : (raiseError e s).b = s.b := rfl
@[simp] theorem raiseError_m (e : ErrCode) (s : State) : (raiseError e s).m = s.m := rfl
@[simp] theorem raiseError_x (e : ErrCode) (s : State) : (raiseError e s).x = s.x := rfl
@[simp] theorem raiseError_r (e : ErrCode) (s : State) : (raiseError e s).r = s.r := rfl
@[simp] theorem raiseError_cmd (e : ErrCode) (s : State) : (raiseError e s).cmd = s.cmd := rfl
@[simp] theorem raiseError_status (e : ErrCode) (s : State) : (raiseError e s).status = statusError e := rfl
@[simp] theorem raiseError_info (e : ErrCode) (s : State) : (raiseError e s).info = s.info := rfl
@[simp] theorem raiseError_irqEn (e : ErrCode) (s : State) : (raiseError e s).irqEn = s.irqEn := rfl
@[simp] theorem raiseError_irqStat (e : ErrCode) (s : State) : (raiseError e s).irqStat = s.irqStat ||| doneIp := rfl
@[simp] theorem raiseError_seq (e : ErrCode) (s : State) : (raiseError e s).seq = .idle := rfl
@[simp] theorem raiseError_work (e : ErrCode) (s : State) : (raiseError e s).work = .fresh := rfl
@[simp] theorem raiseError_rstN (e : ErrCode) (s : State) : (raiseError e s).rstN = s.rstN := rfl
@[simp] theorem raiseError_rng (e : ErrCode) (s : State) : (raiseError e s).rng = s.rng := rfl
@[simp] theorem raiseError_schedule (e : ErrCode) (s : State) : (raiseError e s).schedule = s.schedule := rfl
@[simp] theorem raiseError_trace (e : ErrCode) (s : State) : (raiseError e s).trace = s.trace := rfl

@[simp] theorem ignoredWrite_nwords (s : State) : (ignoredWrite s).nwords = s.nwords := rfl
@[simp] theorem ignoredWrite_a (s : State) : (ignoredWrite s).a = s.a := rfl
@[simp] theorem ignoredWrite_b (s : State) : (ignoredWrite s).b = s.b := rfl
@[simp] theorem ignoredWrite_m (s : State) : (ignoredWrite s).m = s.m := rfl
@[simp] theorem ignoredWrite_x (s : State) : (ignoredWrite s).x = s.x := rfl
@[simp] theorem ignoredWrite_r (s : State) : (ignoredWrite s).r = s.r := rfl
@[simp] theorem ignoredWrite_cmd (s : State) : (ignoredWrite s).cmd = s.cmd := rfl
@[simp] theorem ignoredWrite_status (s : State) : (ignoredWrite s).status = s.status := rfl
@[simp] theorem ignoredWrite_info (s : State) : (ignoredWrite s).info = s.info := rfl
@[simp] theorem ignoredWrite_irqEn (s : State) : (ignoredWrite s).irqEn = s.irqEn := rfl
@[simp] theorem ignoredWrite_irqStat (s : State) : (ignoredWrite s).irqStat = s.irqStat ||| ovrIp := rfl
@[simp] theorem ignoredWrite_seq (s : State) : (ignoredWrite s).seq = s.seq := rfl
@[simp] theorem ignoredWrite_work (s : State) : (ignoredWrite s).work = s.work := rfl
@[simp] theorem ignoredWrite_rstN (s : State) : (ignoredWrite s).rstN = s.rstN := rfl
@[simp] theorem ignoredWrite_rng (s : State) : (ignoredWrite s).rng = s.rng := rfl
@[simp] theorem ignoredWrite_schedule (s : State) : (ignoredWrite s).schedule = s.schedule := rfl
@[simp] theorem ignoredWrite_trace (s : State) : (ignoredWrite s).trace = s.trace := rfl

@[simp] theorem softReset_nwords (s : State) : (softReset s).nwords = s.nwords := rfl
@[simp] theorem softReset_a (s : State) : (softReset s).a = s.a := rfl
@[simp] theorem softReset_b (s : State) : (softReset s).b = s.b := rfl
@[simp] theorem softReset_m (s : State) : (softReset s).m = s.m := rfl
@[simp] theorem softReset_x (s : State) : (softReset s).x = s.x := rfl
@[simp] theorem softReset_r (s : State) : (softReset s).r = 0 := rfl
@[simp] theorem softReset_cmd (s : State) : (softReset s).cmd = 0 := rfl
@[simp] theorem softReset_status (s : State) : (softReset s).status = 0 := rfl
@[simp] theorem softReset_info (s : State) : (softReset s).info = 0 := rfl
@[simp] theorem softReset_irqEn (s : State) : (softReset s).irqEn = s.irqEn := rfl
@[simp] theorem softReset_irqStat (s : State) : (softReset s).irqStat = 0 := rfl
@[simp] theorem softReset_seq (s : State) : (softReset s).seq = .idle := rfl
@[simp] theorem softReset_work (s : State) : (softReset s).work = .fresh := rfl
@[simp] theorem softReset_rstN (s : State) : (softReset s).rstN = s.rstN := rfl
@[simp] theorem softReset_rng (s : State) : (softReset s).rng = s.rng := rfl
@[simp] theorem softReset_schedule (s : State) : (softReset s).schedule = s.schedule := rfl
@[simp] theorem softReset_trace (s : State) : (softReset s).trace = s.trace := rfl

@[simp] theorem powerOnReset_nwords (s : State) : (powerOnReset s).nwords = s.nwords := rfl
@[simp] theorem powerOnReset_a (s : State) : (powerOnReset s).a = 0 := rfl
@[simp] theorem powerOnReset_b (s : State) : (powerOnReset s).b = 0 := rfl
@[simp] theorem powerOnReset_m (s : State) : (powerOnReset s).m = 0 := rfl
@[simp] theorem powerOnReset_x (s : State) : (powerOnReset s).x = 0 := rfl
@[simp] theorem powerOnReset_r (s : State) : (powerOnReset s).r = 0 := rfl
@[simp] theorem powerOnReset_cmd (s : State) : (powerOnReset s).cmd = 0 := rfl
@[simp] theorem powerOnReset_status (s : State) : (powerOnReset s).status = 0 := rfl
@[simp] theorem powerOnReset_info (s : State) : (powerOnReset s).info = 0 := rfl
@[simp] theorem powerOnReset_irqEn (s : State) : (powerOnReset s).irqEn = 0 := rfl
@[simp] theorem powerOnReset_irqStat (s : State) : (powerOnReset s).irqStat = 0 := rfl
@[simp] theorem powerOnReset_seq (s : State) : (powerOnReset s).seq = .idle := rfl
@[simp] theorem powerOnReset_work (s : State) : (powerOnReset s).work = .fresh := rfl
@[simp] theorem powerOnReset_rstN (s : State) : (powerOnReset s).rstN = false := rfl
@[simp] theorem powerOnReset_rng (s : State) : (powerOnReset s).rng = s.rng := rfl
@[simp] theorem powerOnReset_schedule (s : State) : (powerOnReset s).schedule = s.schedule := rfl
@[simp] theorem powerOnReset_trace (s : State) : (powerOnReset s).trace = s.trace := rfl

@[simp] theorem releaseReset_nwords (s : State) : (releaseReset s).nwords = s.nwords := rfl
@[simp] theorem releaseReset_a (s : State) : (releaseReset s).a = s.a := rfl
@[simp] theorem releaseReset_b (s : State) : (releaseReset s).b = s.b := rfl
@[simp] theorem releaseReset_m (s : State) : (releaseReset s).m = s.m := rfl
@[simp] theorem releaseReset_x (s : State) : (releaseReset s).x = s.x := rfl
@[simp] theorem releaseReset_r (s : State) : (releaseReset s).r = s.r := rfl
@[simp] theorem releaseReset_cmd (s : State) : (releaseReset s).cmd = s.cmd := rfl
@[simp] theorem releaseReset_status (s : State) : (releaseReset s).status = s.status := rfl
@[simp] theorem releaseReset_info (s : State) : (releaseReset s).info = s.info := rfl
@[simp] theorem releaseReset_irqEn (s : State) : (releaseReset s).irqEn = s.irqEn := rfl
@[simp] theorem releaseReset_irqStat (s : State) : (releaseReset s).irqStat = s.irqStat := rfl
@[simp] theorem releaseReset_seq (s : State) : (releaseReset s).seq = s.seq := rfl
@[simp] theorem releaseReset_work (s : State) : (releaseReset s).work = s.work := rfl
@[simp] theorem releaseReset_rstN (s : State) : (releaseReset s).rstN = true := rfl
@[simp] theorem releaseReset_rng (s : State) : (releaseReset s).rng = s.rng := rfl
@[simp] theorem releaseReset_schedule (s : State) : (releaseReset s).schedule = s.schedule := rfl
@[simp] theorem releaseReset_trace (s : State) : (releaseReset s).trace = s.trace := rfl

@[simp] theorem respond_nwords (p : Response) (s : State) : (respond p s).nwords = s.nwords := rfl
@[simp] theorem respond_a (p : Response) (s : State) : (respond p s).a = s.a := rfl
@[simp] theorem respond_b (p : Response) (s : State) : (respond p s).b = s.b := rfl
@[simp] theorem respond_m (p : Response) (s : State) : (respond p s).m = s.m := rfl
@[simp] theorem respond_x (p : Response) (s : State) : (respond p s).x = s.x := rfl
@[simp] theorem respond_r (p : Response) (s : State) : (respond p s).r = s.r := rfl
@[simp] theorem respond_cmd (p : Response) (s : State) : (respond p s).cmd = s.cmd := rfl
@[simp] theorem respond_status (p : Response) (s : State) : (respond p s).status = s.status := rfl
@[simp] theorem respond_info (p : Response) (s : State) : (respond p s).info = s.info := rfl
@[simp] theorem respond_irqEn (p : Response) (s : State) : (respond p s).irqEn = s.irqEn := rfl
@[simp] theorem respond_irqStat (p : Response) (s : State) : (respond p s).irqStat = s.irqStat := rfl
@[simp] theorem respond_seq (p : Response) (s : State) : (respond p s).seq = s.seq := rfl
@[simp] theorem respond_work (p : Response) (s : State) : (respond p s).work = s.work := rfl
@[simp] theorem respond_rstN (p : Response) (s : State) : (respond p s).rstN = s.rstN := rfl
@[simp] theorem respond_rng (p : Response) (s : State) : (respond p s).rng = s.rng := rfl
@[simp] theorem respond_schedule (p : Response) (s : State) : (respond p s).schedule = s.schedule := rfl
@[simp] theorem respond_trace (p : Response) (s : State) : (respond p s).trace = s.trace ++ [p] := rfl

@[simp] theorem setRng_nwords (ws : List Word) (s : State) : (setRng ws s).nwords = s.nwords := rfl
@[simp] theorem setRng_a (ws : List Word) (s : State) : (setRng ws s).a = s.a := rfl
@[simp] theorem setRng_b (ws : List Word) (s : State) : (setRng ws s).b = s.b := rfl
@[simp] theorem setRng_m (ws : List Word) (s : State) : (setRng ws s).m = s.m := rfl
@[simp] theorem setRng_x (ws : List Word) (s : State) : (setRng ws s).x = s.x := rfl
@[simp] theorem setRng_r (ws : List Word) (s : State) : (setRng ws s).r = s.r := rfl
@[simp] theorem setRng_cmd (ws : List Word) (s : State) : (setRng ws s).cmd = s.cmd := rfl
@[simp] theorem setRng_status (ws : List Word) (s : State) : (setRng ws s).status = s.status := rfl
@[simp] theorem setRng_info (ws : List Word) (s : State) : (setRng ws s).info = s.info := rfl
@[simp] theorem setRng_irqEn (ws : List Word) (s : State) : (setRng ws s).irqEn = s.irqEn := rfl
@[simp] theorem setRng_irqStat (ws : List Word) (s : State) : (setRng ws s).irqStat = s.irqStat := rfl
@[simp] theorem setRng_seq (ws : List Word) (s : State) : (setRng ws s).seq = s.seq := rfl
@[simp] theorem setRng_work (ws : List Word) (s : State) : (setRng ws s).work = s.work := rfl
@[simp] theorem setRng_rstN (ws : List Word) (s : State) : (setRng ws s).rstN = s.rstN := rfl
@[simp] theorem setRng_rng (ws : List Word) (s : State) : (setRng ws s).rng = ws := rfl
@[simp] theorem setRng_schedule (ws : List Word) (s : State) : (setRng ws s).schedule = s.schedule := rfl
@[simp] theorem setRng_trace (ws : List Word) (s : State) : (setRng ws s).trace = s.trace := rfl

@[simp] theorem setWork_nwords (w : Work) (s : State) : (setWork w s).nwords = s.nwords := rfl
@[simp] theorem setWork_a (w : Work) (s : State) : (setWork w s).a = s.a := rfl
@[simp] theorem setWork_b (w : Work) (s : State) : (setWork w s).b = s.b := rfl
@[simp] theorem setWork_m (w : Work) (s : State) : (setWork w s).m = s.m := rfl
@[simp] theorem setWork_x (w : Work) (s : State) : (setWork w s).x = s.x := rfl
@[simp] theorem setWork_r (w : Work) (s : State) : (setWork w s).r = s.r := rfl
@[simp] theorem setWork_cmd (w : Work) (s : State) : (setWork w s).cmd = s.cmd := rfl
@[simp] theorem setWork_status (w : Work) (s : State) : (setWork w s).status = s.status := rfl
@[simp] theorem setWork_info (w : Work) (s : State) : (setWork w s).info = s.info := rfl
@[simp] theorem setWork_irqEn (w : Work) (s : State) : (setWork w s).irqEn = s.irqEn := rfl
@[simp] theorem setWork_irqStat (w : Work) (s : State) : (setWork w s).irqStat = s.irqStat := rfl
@[simp] theorem setWork_seq (w : Work) (s : State) : (setWork w s).seq = s.seq := rfl
@[simp] theorem setWork_work (w : Work) (s : State) : (setWork w s).work = w := rfl
@[simp] theorem setWork_rstN (w : Work) (s : State) : (setWork w s).rstN = s.rstN := rfl
@[simp] theorem setWork_rng (w : Work) (s : State) : (setWork w s).rng = s.rng := rfl
@[simp] theorem setWork_schedule (w : Work) (s : State) : (setWork w s).schedule = s.schedule := rfl
@[simp] theorem setWork_trace (w : Work) (s : State) : (setWork w s).trace = s.trace := rfl

@[simp] theorem setSchedule_nwords (es : List Event) (s : State) : (setSchedule es s).nwords = s.nwords := rfl
@[simp] theorem setSchedule_a (es : List Event) (s : State) : (setSchedule es s).a = s.a := rfl
@[simp] theorem setSchedule_b (es : List Event) (s : State) : (setSchedule es s).b = s.b := rfl
@[simp] theorem setSchedule_m (es : List Event) (s : State) : (setSchedule es s).m = s.m := rfl
@[simp] theorem setSchedule_x (es : List Event) (s : State) : (setSchedule es s).x = s.x := rfl
@[simp] theorem setSchedule_r (es : List Event) (s : State) : (setSchedule es s).r = s.r := rfl
@[simp] theorem setSchedule_cmd (es : List Event) (s : State) : (setSchedule es s).cmd = s.cmd := rfl
@[simp] theorem setSchedule_status (es : List Event) (s : State) : (setSchedule es s).status = s.status := rfl
@[simp] theorem setSchedule_info (es : List Event) (s : State) : (setSchedule es s).info = s.info := rfl
@[simp] theorem setSchedule_irqEn (es : List Event) (s : State) : (setSchedule es s).irqEn = s.irqEn := rfl
@[simp] theorem setSchedule_irqStat (es : List Event) (s : State) : (setSchedule es s).irqStat = s.irqStat := rfl
@[simp] theorem setSchedule_seq (es : List Event) (s : State) : (setSchedule es s).seq = s.seq := rfl
@[simp] theorem setSchedule_work (es : List Event) (s : State) : (setSchedule es s).work = s.work := rfl
@[simp] theorem setSchedule_rstN (es : List Event) (s : State) : (setSchedule es s).rstN = s.rstN := rfl
@[simp] theorem setSchedule_rng (es : List Event) (s : State) : (setSchedule es s).rng = s.rng := rfl
@[simp] theorem setSchedule_schedule (es : List Event) (s : State) : (setSchedule es s).schedule = es := rfl
@[simp] theorem setSchedule_trace (es : List Event) (s : State) : (setSchedule es s).trace = s.trace := rfl

@[simp] theorem powerOn_nwords (n : Nat) : (State.powerOn n).nwords = n := rfl
@[simp] theorem powerOn_a (n : Nat) : (State.powerOn n).a = 0 := rfl
@[simp] theorem powerOn_b (n : Nat) : (State.powerOn n).b = 0 := rfl
@[simp] theorem powerOn_m (n : Nat) : (State.powerOn n).m = 0 := rfl
@[simp] theorem powerOn_x (n : Nat) : (State.powerOn n).x = 0 := rfl
@[simp] theorem powerOn_r (n : Nat) : (State.powerOn n).r = 0 := rfl
@[simp] theorem powerOn_cmd (n : Nat) : (State.powerOn n).cmd = 0 := rfl
@[simp] theorem powerOn_status (n : Nat) : (State.powerOn n).status = 0 := rfl
@[simp] theorem powerOn_info (n : Nat) : (State.powerOn n).info = 0 := rfl
@[simp] theorem powerOn_irqEn (n : Nat) : (State.powerOn n).irqEn = 0 := rfl
@[simp] theorem powerOn_irqStat (n : Nat) : (State.powerOn n).irqStat = 0 := rfl
@[simp] theorem powerOn_seq (n : Nat) : (State.powerOn n).seq = .idle := rfl
@[simp] theorem powerOn_work (n : Nat) : (State.powerOn n).work = .fresh := rfl
@[simp] theorem powerOn_rstN (n : Nat) : (State.powerOn n).rstN = true := rfl
@[simp] theorem powerOn_rng (n : Nat) : (State.powerOn n).rng = [] := rfl
@[simp] theorem powerOn_schedule (n : Nat) : (State.powerOn n).schedule = [] := rfl
@[simp] theorem powerOn_trace (n : Nat) : (State.powerOn n).trace = [] := rfl

@[simp] theorem setOperand_nwords (s : State) (q : Operand) (v : Nat) : (s.setOperand q v).nwords = s.nwords := by cases q <;> rfl
@[simp] theorem setOperand_r (s : State) (q : Operand) (v : Nat) : (s.setOperand q v).r = s.r := by cases q <;> rfl
@[simp] theorem setOperand_cmd (s : State) (q : Operand) (v : Nat) : (s.setOperand q v).cmd = s.cmd := by cases q <;> rfl
@[simp] theorem setOperand_status (s : State) (q : Operand) (v : Nat) : (s.setOperand q v).status = s.status := by cases q <;> rfl
@[simp] theorem setOperand_info (s : State) (q : Operand) (v : Nat) : (s.setOperand q v).info = s.info := by cases q <;> rfl
@[simp] theorem setOperand_irqEn (s : State) (q : Operand) (v : Nat) : (s.setOperand q v).irqEn = s.irqEn := by cases q <;> rfl
@[simp] theorem setOperand_irqStat (s : State) (q : Operand) (v : Nat) : (s.setOperand q v).irqStat = s.irqStat := by cases q <;> rfl
@[simp] theorem setOperand_seq (s : State) (q : Operand) (v : Nat) : (s.setOperand q v).seq = s.seq := by cases q <;> rfl
@[simp] theorem setOperand_work (s : State) (q : Operand) (v : Nat) : (s.setOperand q v).work = s.work := by cases q <;> rfl
@[simp] theorem setOperand_rstN (s : State) (q : Operand) (v : Nat) : (s.setOperand q v).rstN = s.rstN := by cases q <;> rfl
@[simp] theorem setOperand_rng (s : State) (q : Operand) (v : Nat) : (s.setOperand q v).rng = s.rng := by cases q <;> rfl
@[simp] theorem setOperand_schedule (s : State) (q : Operand) (v : Nat) : (s.setOperand q v).schedule = s.schedule := by cases q <;> rfl
@[simp] theorem setOperand_trace (s : State) (q : Operand) (v : Nat) : (s.setOperand q v).trace = s.trace := by cases q <;> rfl

theorem setOperand_operand (s : State) (q p : Operand) (v : Nat) :
    (s.setOperand q v).operand p = if p = q ∧ q ≠ .r then v else s.operand p := by
  cases q <;> cases p <;> rfl

@[simp] theorem writeWord_nwords (q : Operand) (k : Nat) (v : Word) (s : State) : (writeWord q k v s).nwords = s.nwords := by unfold writeWord; split <;> simp
@[simp] theorem writeWord_r (q : Operand) (k : Nat) (v : Word) (s : State) : (writeWord q k v s).r = s.r := by unfold writeWord; split <;> simp
@[simp] theorem writeWord_cmd (q : Operand) (k : Nat) (v : Word) (s : State) : (writeWord q k v s).cmd = s.cmd := by unfold writeWord; split <;> simp
@[simp] theorem writeWord_status (q : Operand) (k : Nat) (v : Word) (s : State) : (writeWord q k v s).status = s.status := by unfold writeWord; split <;> simp
@[simp] theorem writeWord_info (q : Operand) (k : Nat) (v : Word) (s : State) : (writeWord q k v s).info = s.info := by unfold writeWord; split <;> simp
@[simp] theorem writeWord_irqEn (q : Operand) (k : Nat) (v : Word) (s : State) : (writeWord q k v s).irqEn = s.irqEn := by unfold writeWord; split <;> simp
@[simp] theorem writeWord_irqStat (q : Operand) (k : Nat) (v : Word) (s : State) : (writeWord q k v s).irqStat = s.irqStat := by unfold writeWord; split <;> simp
@[simp] theorem writeWord_seq (q : Operand) (k : Nat) (v : Word) (s : State) : (writeWord q k v s).seq = s.seq := by unfold writeWord; split <;> simp
@[simp] theorem writeWord_work (q : Operand) (k : Nat) (v : Word) (s : State) : (writeWord q k v s).work = s.work := by unfold writeWord; split <;> simp
@[simp] theorem writeWord_rstN (q : Operand) (k : Nat) (v : Word) (s : State) : (writeWord q k v s).rstN = s.rstN := by unfold writeWord; split <;> simp
@[simp] theorem writeWord_rng (q : Operand) (k : Nat) (v : Word) (s : State) : (writeWord q k v s).rng = s.rng := by unfold writeWord; split <;> simp
@[simp] theorem writeWord_schedule (q : Operand) (k : Nat) (v : Word) (s : State) : (writeWord q k v s).schedule = s.schedule := by unfold writeWord; split <;> simp
@[simp] theorem writeWord_trace (q : Operand) (k : Nat) (v : Word) (s : State) : (writeWord q k v s).trace = s.trace := by unfold writeWord; split <;> simp

/-- A window write changes one register, and only a host-writable one below NWORDS. -/
theorem writeWord_operand (q p : Operand) (k : Nat) (v : Word) (s : State) :
    (writeWord q k v s).operand p =
      if p = q ∧ q ≠ .r ∧ k < s.nwords then setWord (s.operand q) k v else s.operand p := by
  unfold writeWord
  split
  · rw [setOperand_operand]; simp_all
  · simp_all

end Sys2Proof.Machine
end

