-- ==== Sys2Proof/Laws/Ops.lean ====
section
/-! SUPPORT. What each shared operation can do, said once: a read of CMD, the engine's completion step, a bus write, a
transfer, one event, one step and the end of a run. -/

namespace Sys2Proof.Machine

/-- A read of CMD shows OP and RND as accepted, and 0 in the reserved field. -/
theorem cmdReadBack_getLsbD (c : Word) (j : Nat) : (cmdReadBack c).getLsbD j = (decide (j < 16) && c.getLsbD j) := by
  rcases Nat.lt_or_ge j 32 with h | h
  · have mask : ∀ j < 32, (0x0000FFFF : Word).getLsbD j = decide (j < 16) := by decide
    rw [cmdReadBack, BitVec.getLsbD_and, mask j h, Bool.and_comm]
  · rw [BitVec.getLsbD_of_ge _ _ h, BitVec.getLsbD_of_ge c _ h, Bool.and_false]

theorem cmdReadBack_of_rsv_zero {c : Word} (h : rsvField c = 0) : cmdReadBack c = c := by
  apply BitVec.eq_of_getLsbD_eq
  intro j hj
  rw [cmdReadBack_getLsbD]
  rcases Nat.lt_or_ge j 16 with h16 | h16
  · simp [h16]
  · have high := congrArg (·.getLsbD (j - 16)) h
    simp only [rsvField, BitVec.getLsbD_extractLsb', show j - 16 < 16 by omega, show 16 + (j - 16) = j by omega] at high
    have : c.getLsbD j = false := by simpa using high
    simp [this]

/-- A completion step ends with success, ends with an error, or leaves an MRTEST waiting for words. -/
inductive Completes (s : State) : State → Prop where
  | success (r : Nat) (x : Option Nat) (info : Word) (result : Bool) (ws : List Word) :
      Completes s (complete r x info result (setRng ws s))
  | error (e : ErrCode) : Completes s (raiseError e s)
  | waits (w : Work) : Completes s (setWork w (setRng [] s))

theorem exec_completes (i : Instr) (s : State) : ∃ t, exec i s = .next t ∧ Completes s t := by
  have keep : setRng s.rng s = s := rfl
  cases i with
  | modmul =>
    simp only [exec, execModmul]
    split
    · exact ⟨_, rfl, .error _⟩
    · exact ⟨_, rfl, keep ▸ .success _ _ _ _ s.rng⟩
  | modexp =>
    simp only [exec, execModexp]
    split
    · exact ⟨_, rfl, .error _⟩
    · exact ⟨_, rfl, keep ▸ .success _ _ _ _ s.rng⟩
  | modinv =>
    simp only [exec, execModinv]
    split
    · exact ⟨_, rfl, .error _⟩
    · split
      · exact ⟨_, rfl, .error _⟩
      · exact ⟨_, rfl, keep ▸ .success _ _ _ _ s.rng⟩
  | trialdiv =>
    simp only [exec, execTrialdiv]
    split <;> exact ⟨_, rfl, keep ▸ .success _ _ _ _ s.rng⟩
  | mrround =>
    simp only [exec, execMrround]
    split
    · exact ⟨_, rfl, .error _⟩
    · split <;> exact ⟨_, rfl, keep ▸ .success _ _ _ _ s.rng⟩
  | mrtest rounds =>
    simp only [exec, execMrtest]
    split
    · exact ⟨_, rfl, .error _⟩
    · split
      · exact ⟨_, rfl, keep ▸ .success _ _ _ _ s.rng⟩
      · split
        · exact ⟨_, rfl, .success _ _ _ _ _⟩
        · exact ⟨_, rfl, .success _ _ _ _ _⟩
        · exact ⟨_, rfl, .waits _⟩

/-- The engine's turn changes nothing, or is a completion step. -/
theorem engineTurn_cases (s : State) : ∃ t, engineTurn s = .next t ∧ (t = s ∨ Completes s t) := by
  unfold engineTurn
  split
  · split
    · exact ⟨_, rfl, .inl rfl⟩
    · split
      · obtain ⟨t, h, hc⟩ := exec_completes _ s
        exact ⟨t, h, .inr hc⟩
      · exact ⟨_, rfl, .inr (.error _)⟩
  · exact ⟨_, rfl, .inl rfl⟩

/-- A legal bus write does one of these. -/
inductive Writes (s : State) : State → Prop where
  | nothing : Writes s s
  | accepts (c : Word) (h : s.seq = .idle) : Writes s (accept c s)
  | ignored (h : s.seq = .busy) : Writes s (ignoredWrite s)
  | resets : Writes s (softReset s)
  | enables (v : Word) : Writes s { s with irqEn := v &&& irqMask }
  | clears (v : Word) : Writes s { s with irqStat := w1c s.irqStat v }
  | loads (q : Operand) (k : Nat) (v : Word) (h : s.seq = .idle) : Writes s (writeWord q k v s)

theorem whileIdle_writes {f : State → State} {s : State} (h : s.seq = .idle → Writes s (f s)) :
    Writes s (whileIdle f s) := by
  unfold whileIdle
  cases hs : s.seq with
  | idle => exact h hs
  | busy => exact .ignored hs

theorem writeReg_writes (t : Target) (v : Word) (s : State) : Writes s (writeReg t v s) := by
  cases t with
  | misaligned => exact .nothing
  | reserved => exact .nothing
  | id => exact .nothing
  | param => exact .nothing
  | cmd => exact whileIdle_writes fun h => .accepts v h
  | status => exact .nothing
  | info => exact .nothing
  | ctrl =>
    simp only [writeReg]
    split
    · exact .resets
    · exact .nothing
  | irqEn => exact .enables v
  | irqStat => exact .clears v
  | word q k =>
    cases q with
    | a => exact whileIdle_writes fun h => .loads .a k v h
    | b => exact whileIdle_writes fun h => .loads .b k v h
    | m => exact whileIdle_writes fun h => .loads .m k v h
    | x => exact whileIdle_writes fun h => .loads .x k v h
    | r => exact .nothing

theorem effectOf_writes (t : Transfer) (s : State) : Writes s (effectOf t s) := by
  cases t with
  | read off => exact .nothing
  | write off v strb =>
    simp only [effectOf]
    split
    · exact writeReg_writes _ _ _
    · exact .nothing

/-- In reset a transfer changes no register. -/
theorem effectOf_inReset {t : Transfer} {s : State} (h : s.rstN = false) : effectOf t s = s := by
  cases t <;> simp [effectOf, h]

/-- An IDLE engine's turn changes nothing (R168). -/
theorem engineTurn_idle {s : State} (h : s.seq = .idle) : engineTurn s = .next s := by
  unfold engineTurn
  rw [h]
  split <;> rfl

/-- With no command running before the edge there is no turn at it (R181). -/
theorem whileRunning_idle {f : State → Host.Outcome State Fault Refusal} {before after : State}
    (h : before.seq = .idle) : whileRunning f before after = .next after := by
  unfold whileRunning; rw [h]

theorem whileRunning_busy {f : State → Host.Outcome State Fault Refusal} {before after : State}
    (h : before.seq = .busy) : whileRunning f before after = f after := by
  unfold whileRunning; rw [h]

/-- An ended run is observed where it has ended, whatever the other agents still do (R191). -/
theorem observeRun_ended {fuel : Nat} {s : State} (h : runEnded s = true) : observeRun fuel s = some (observe s) := by
  cases fuel <;> simp [observeRun, h]

/-- A run that has not ended is observed after the next step (R191). -/
theorem observeRun_step {fuel : Nat} {s t : State} (h : runEnded s = false) (hs : step s = .next t) :
    observeRun (fuel + 1) s = observeRun fuel t := by
  simp [observeRun, h, hs]

/-- What one step can do, event by event. -/
inductive Steps (s : State) : State → Prop where
  | transfer (t : Transfer) : Steps s (busTransfer t s)
  | engine {u : State} (h : engineTurn s = .next u) : Steps s u
  | together (t : Transfer) {u : State} (hs : s.seq = .busy) (h : engineTurn (busTransfer t s) = .next u) : Steps s u
  | poll (off : Offset) (mask val : Word) : Steps s (pollRead off mask val s)
  | offer (ws : List Word) : Steps s (setRng ws s)
  | resetAssert : Steps s (powerOnReset s)
  | resetRelease : Steps s (releaseReset s)

theorem step_cases {s t : State} (h : step s = .next t) :
    Steps s t ∨ ∃ e es, s.schedule = e :: es ∧ Steps (setSchedule es s) t := by
  unfold step at h
  split at h
  · exact .inl (.engine h)
  · rename_i e es hs
    refine .inr ⟨e, es, hs, ?_⟩
    cases e with
    | transfer t => cases h; exact .transfer t
    | engine => exact .engine h
    | together t =>
      simp only [applyEvent, whileRunning] at h
      split at h
      · cases h; exact .transfer t
      · exact .together t ‹_› h
    | poll off mask val => cases h; exact .poll off mask val
    | offer words => cases h; exact .offer words
    | resetAssert => cases h; exact .resetAssert
    | resetRelease => cases h; exact .resetRelease

/-- A property of states that every kind of event keeps is kept by every step. -/
theorem step_keeps {P : State → Prop}
    (schedule : ∀ s es, P s → P (setSchedule es s))
    (response : ∀ s p, P s → P (respond p s))
    (writes : ∀ s t, s.rstN = true → P s → Writes s t → P t)
    (command : ∀ s t i, s.rstN = true → s.seq = .busy → P s → decode s.cmd = .ok i → exec i s = .next t → P t)
    (illegal : ∀ s, s.rstN = true → s.seq = .busy → P s → P (raiseError .illegalCommand s))
    (offer : ∀ s ws, P s → P (setRng ws s))
    (assert : ∀ s, P s → P (powerOnReset s))
    (release : ∀ s, P s → P (releaseReset s)) {s t : State} (hs : P s) (h : step s = .next t) : P t := by
  have turn : ∀ s t, P s → engineTurn s = .next t → P t := by
    intro s t hs h
    unfold engineTurn at h
    split at h
    · split at h
      · cases h; exact hs
      · split at h
        · exact command _ _ _ ‹_› ‹_› hs ‹_› h
        · cases h; exact illegal _ ‹_› ‹_› hs
    · cases h; exact hs
  have bus : ∀ s tr, P s → P (busTransfer tr s) := by
    intro s tr hs
    refine response _ _ ?_
    cases hr : s.rstN with
    | true => exact writes _ _ hr hs (effectOf_writes _ _)
    | false => rw [effectOf_inReset hr]; exact hs
  have event : ∀ s t, P s → Steps s t → P t := by
    intro s t hs h
    cases h with
    | transfer tr => exact bus _ _ hs
    | engine h => exact turn _ _ hs h
    | together tr _ h => exact turn _ _ (bus _ _ hs) h
    | poll off mask val =>
      simp only [pollRead]
      split
      · exact bus _ _ hs
      · exact schedule _ _ (bus _ _ hs)
    | offer ws => exact offer _ _ hs
    | resetAssert => exact assert _ hs
    | resetRelease => exact release _ hs
  rcases step_cases h with h | ⟨e, es, -, h⟩
  · exact event _ _ hs h
  · exact event _ _ (schedule _ _ hs) h

end Sys2Proof.Machine
end

