-- ==== Sys2Proof/Laws/PerInstr.lean ====
section
/-! SUPPORT. A statement about every command as syntax, one lemma per constructor: its command word is legal by the
predicate of spec/30_encoding.md R91. -/

namespace Sys2Proof.Laws.EncodeLegal

/-- A command with an encoding has a legal command word (R91). -/
def Statement (i : Instr) : Prop := i.WellFormed → Legal (encode i)

theorem modmul : Statement .modmul := fun _ => by decide
theorem modexp : Statement .modexp := fun _ => by decide
theorem modinv : Statement .modinv := fun _ => by decide
theorem trialdiv : Statement .trialdiv := fun _ => by decide
theorem mrround : Statement .mrround := fun _ => by decide
theorem mrtest (rounds : Nat) : Statement (.mrtest rounds) := fun _ => by
  have hop : opField (encode (.mrtest rounds)) = 0x06 := by
    apply BitVec.eq_of_getLsbD_eq
    intro j hj
    simp only [opField, encode, BitVec.getLsbD_extractLsb', BitVec.getLsbD_append, hj]
    simp [hj]
  have hrsv : rsvField (encode (.mrtest rounds)) = 0 := by
    apply BitVec.eq_of_getLsbD_eq
    intro j hj
    simp only [rsvField, encode, BitVec.getLsbD_extractLsb', BitVec.getLsbD_append]
    simp [show ¬ 16 + j < 8 by omega]
    omega
  exact ⟨hrsv, by rw [hop]; decide, .inl hop⟩

end Sys2Proof.Laws.EncodeLegal
end

