-- ==== Sys2Proof/Tests/Slice0.lean ====
section
/-! SUPPORT. Tests against spec/95_test_vectors.md (each names its row), written as named theorems, and for every
statement with hypotheses a witness: concrete values that meet all its hypotheses together. -/

namespace Sys2Proof.Tests

open Sys2Proof Sys2Proof.Machine

/-! ## Helpers -/

/-- The state before a vector of section 2: `W = 64`, R and INFO with their marks. -/
def marked (a b m x : Nat) : State :=
  { State.powerOn 2 with a := a, b := b, m := m, x := x, r := 0xAAAA, info := 0x5555 }

/-- The same with command word `c` accepted. -/
def running (c : Word) (a b m x : Nat) : State :=
  { marked a b m x with cmd := c, seq := .busy, status := 1 }

/-- The same with random words offered. -/
def offered (ws : List Word) (s : State) : State := { s with rng := ws }

/-- The same with events to come. -/
def upcoming (es : List Event) (s : State) : State := { s with schedule := es }

/-- One value of the next state, where there is one. -/
def see {α : Type} (f : State → α) : Host.Outcome State Fault Refusal → Option α
  | .next s => some (f s)
  | .fault _ => none
  | .refused _ => none

/-- R, X, STATUS and INFO, the columns of the tables of section 2. -/
def columns (s : State) : Nat × Nat × Word × Word := (s.r, s.x, s.status, s.info)

/-- What one transfer answers, and the registers it may have changed. -/
def answered (t : Transfer) (s : State) : Option Response :=
  (see State.trace (step (upcoming [.transfer t] s))).bind List.getLast?

/-! ## Syntax, decoding, encoding -/

theorem test_mrtest_255_well_formed : (Instr.mrtest 255).WellFormed := by decide
theorem test_mrtest_256_ill_formed : ¬ (Instr.mrtest 256).WellFormed := by decide

-- R90, R95: bits [31:16] RSV, [15:8] RND, [7:0] OP
theorem test_decode_modmul : decode 0b0000000000000000_00000000_00000001 = .ok .modmul := by decide
theorem test_decode_modexp : decode 0b0000000000000000_00000000_00000010 = .ok .modexp := by decide
theorem test_decode_modinv : decode 0b0000000000000000_00000000_00000011 = .ok .modinv := by decide
theorem test_decode_trialdiv : decode 0b0000000000000000_00000000_00000100 = .ok .trialdiv := by decide
theorem test_decode_mrround : decode 0b0000000000000000_00000000_00000101 = .ok .mrround := by decide
theorem test_decode_mrtest_20 : decode 0b0000000000000000_00010100_00000110 = .ok (.mrtest 20) := by decide
theorem test_decode_mrtest_255 : decode 0b0000000000000000_11111111_00000110 = .ok (.mrtest 255) := by decide

-- rows L1, L2, L3, L4, L5, L6
theorem test_decode_illegal :
    decode 0x00000000 = .error .reservedOpcode ∧ decode 0x00000007 = .error .reservedOpcode ∧
    decode 0x000000FF = .error .reservedOpcode ∧ decode 0x00000103 = .error .roundsNotZero ∧
    decode 0x00010001 = .error .reservedBits ∧ decode 0x80000806 = .error .reservedBits := by decide

-- R95, the textual forms of section 4
theorem test_encode : encode (.mrtest 8) = 0x00000806 ∧ encode .modexp = 0x00000002 := by decide
theorem test_table_word : decodeTableWord 32 0x00001406 = some (.mrtest 20) := by decide

-- the placed word is the first command after reset (log entry 3): A = 1 is row T2, A = 0 row D1
theorem test_placed_word_runs :
    see columns (step (State.reset.withFetchWord 32 0x00000004)) = some (0, 0, 0x00000002, 0x00000001) := by
  decide +kernel
theorem test_placed_mrtest_zero :
    see columns (step (State.reset.withFetchWord 32 0x00000006)) = some (0, 0, 0x00000106, 0) := by decide +kernel

/-! ## The commands: at most two vectors each -/

theorem test_modmul_u3 : see columns (step (running 0x01 0xFFFFFFFFFFFFFFFF 0xFFFFFFFFFFFFFFFF 0xFFFFFFFFFFFFFFC5 0)) =
    some (0xD24, 0, 0x00000002, 0) := by decide +kernel
theorem test_modmul_u6 : see columns (step (running 0x01 3 4 0 0)) =
    some (0xAAAA, 0, 0x00000106, 0x00005555) := by decide +kernel
theorem test_modexp_e9 : see columns (step (running 0x02 2 0xFFFFFFFFFFFFFFFF 0xFFFFFFFFFFFFFFC5 0)) =
    some (0x0800000000000000, 0, 0x00000002, 0) := by decide +kernel
theorem test_modexp_e3 : see columns (step (running 0x02 5 0 1 0)) = some (0, 0, 0x00000002, 0) := by decide +kernel
theorem test_modinv_i2 : see columns (step (running 0x03 10 0 17 0)) =
    some (12, 0, 0x00000002, 0) := by decide +kernel
theorem test_modinv_i3 : see columns (step (running 0x03 6 0 9 0)) =
    some (0xAAAA, 0, 0x00000206, 0x00005555) := by decide +kernel
theorem test_trialdiv_d5 : see columns (step (running 0x04 29 0 0 0)) =
    some (1, 0, 0x0000000A, 0x00000002) := by decide +kernel
theorem test_trialdiv_d11 : see columns (step (running 0x04 961 0 0 0)) =
    some (0, 0, 0x00000002, 0x00000004) := by decide +kernel
theorem test_mrround_m11 : see columns (step (running 0x05 25 0 0 7)) =
    some (1, 7, 0x0000000A, 0x00030106) := by decide +kernel
theorem test_mrround_m21 : see columns (step (running 0x05 15 0 0 14)) =
    some (0xAAAA, 14, 0x00000106, 0x00005555) := by decide +kernel
theorem test_mrtest_t5 : see (fun s => (columns s, s.rng)) (step (offered [0, 0x71] (running 0x0206 961 0 0 0))) =
    some ((0, 2, 0x00000002, 0x00060105), [0x71]) := by decide +kernel
theorem test_mrtest_t9 : see columns (step (offered [0x7FF, 0x801] (running 0x0106 1891 0 0 0))) =
    some (1, 3, 0x0000000A, 0x00010106) := by decide +kernel
-- row L5
theorem test_illegal_l5 : see columns (step (running 0x00010001 3 4 5 0)) =
    some (0xAAAA, 0, 0x00000306, 0x00005555) := by decide +kernel

/-! ## The bus: rows of section 3 -/

theorem test_b2 : answered (.read 0x004) (State.powerOn 2) = some (.readData 0x004 0x1D0A0002) ∧
    answered (.read 0x004) State.reset = some (.readData 0x004 0x1D0A0020) := by decide +kernel
theorem test_b3 : answered (.write 0x00A 1 0b1111) (State.powerOn 2) = some (.busError 0x00A) := by decide +kernel
theorem test_b4 : see (fun s => (s.a, s.trace)) (step (upcoming [.transfer (.write 0x200 7 0b0011)] (State.powerOn 2))) =
    some (0, [.busError 0x200]) := by decide +kernel
theorem test_b5 : answered (.read 0xC00) (State.powerOn 2) = some (.busError 0xC00) := by decide +kernel
theorem test_b6 : see (fun s => (s.a, s.trace)) (step (upcoming [wr 0x208 5] (State.powerOn 2))) =
    some (0, [.writeDone 0x208]) := by decide +kernel
theorem test_b10 : see State.irqEn (step (upcoming [wr 0x018 0xFFFFFFFF] (State.powerOn 2))) = some 3 := by
  decide +kernel
theorem test_b13 : see (fun s => (s.a, s.irqStat)) (step (upcoming [wr 0x200 0x99] (running 0x01 3 4 5 0))) =
    some (3, 2) := by decide +kernel
theorem test_b15 : see (fun s => (columns s, s.a, s.seq, s.irqStat))
    (step (upcoming [wr 0x014 1] (running 0x01 3 4 5 0))) = some ((0, 0, 0, 0), 3, .idle, 0) := by decide +kernel
theorem test_b18 : see State.irqStat (step (upcoming [.together (.write 0x01C 1 0b1111)]
    { running 0x01 3 4 5 0 with irqStat := 1 })) = some 1 := by decide +kernel
theorem test_b19 : see (fun s => (s.cmd, s.irqStat, s.r))
    (step (upcoming [.together (.write 0x008 2 0b1111)] (running 0x01 3 4 5 0))) = some (1, 3, 2) := by decide +kernel
-- P4 transfer 11: word 1 is the most significant
theorem test_load_word_1 : see State.a (step (upcoming [wr 0x204 0xFFFFFFFF] { State.powerOn 2 with a := 2 })) =
    some 0xFFFFFFFF00000002 := by decide +kernel
-- R96: a POLL that is not satisfied gives the engine its turn and reads again (log entry 9)
theorem test_busy_status_read : answered (.read 0x00C) (running 0x02 2 3 0 0) = some (.readData 0x00C 1) := by
  decide +kernel
theorem test_poll_repeats : see State.schedule (step (upcoming [progWait] (running 0x01 3 4 5 0))) =
    some [.engine, progWait] := by decide +kernel

-- R33: CMD reads as the accepted word
theorem test_cmd_reads_accepted_word : answered (.read 0x008) (running 0x0806 3 4 5 0) =
    some (.readData 0x008 0x0806) := by decide +kernel
-- row L5, R44: CMD stores an illegal word whole, and its reserved field reads 0 (log entry 21)
theorem test_cmd_stores_whole_word : see State.cmd (step (upcoming [wr 0x008 0x00010001] (State.powerOn 2))) =
    some 0x00010001 := by decide +kernel
theorem test_cmd_reserved_field_reads_zero : answered (.read 0x008) (running 0x80000806 3 4 5 0) =
    some (.readData 0x008 0x0806) := by decide +kernel
-- P3 transfers 21 to 26 (log entry 23): STATUS is 0x0000000A after MRROUND, 1 from MRTEST's acceptance
theorem test_acceptance_clears_result : see State.status
    (step (upcoming [wr 0x008 0x0806] { State.powerOn 2 with status := 0x0000000A })) = some 1 := by decide +kernel
-- R191: the run ends when the host is done and the engine IDLE; what the other agents do later is not in it
theorem test_run_ends_before_reset : observeRun 1 (upcoming [rd 0x200, .resetAssert] (marked 3 4 5 0)) =
    some { reads := [3], a := 3, b := 4, m := 5, x := 0, r := 0xAAAA, cmd := 0, status := 0, info := 0x5555,
           irqEn := 0, irqStat := 0 } := by decide +kernel
-- R191: a run whose last command is starved does not end (row T10)
theorem test_starved_run_not_ended : observeRun 1 (running 0x0106 1891 0 0 0) = none := by decide +kernel

/-! ## Witnesses: the hypotheses of each statement, met together -/

theorem reset_inv : Inv State.reset := by decide +kernel

theorem witness_decodeOfEncode : (Instr.mrtest 255).WellFormed := by decide

theorem witness_encodeOfDecode : decode 0x0000FF06 = .ok (.mrtest 255) := by decide

theorem witness_stepRunsDecodedCommand :
    (running 0x01 3 4 5 0).rstN = true ∧ (running 0x01 3 4 5 0).seq = .busy ∧
    decode (running 0x01 3 4 5 0).cmd = .ok .modmul ∧ (running 0x01 3 4 5 0).schedule = [] ∧
    (upcoming [.engine, progWait] (running 0x01 3 4 5 0)).schedule = .engine :: [progWait] :=
  ⟨rfl, rfl, by decide, rfl, rfl⟩

theorem witness_placedWordRunsNext : 0x00000806 < 2 ^ 32 ∧ decode (BitVec.ofNat 32 0x00000806) = .ok (.mrtest 8) := by
  decide

/-- A host writes a CMD word, idle. -/
theorem witness_commandWriteAccepts :
    (upcoming [wr 0x008 2] (marked 3 4 5 0)).rstN = true ∧ (upcoming [wr 0x008 2] (marked 3 4 5 0)).seq = .idle ∧
    (upcoming [wr 0x008 2] (marked 3 4 5 0)).schedule = .transfer (.write 0x008 2 0b1111) :: [] := ⟨rfl, rfl, rfl⟩

theorem witness_illegalWordEndsWithIllegalCommand :
    (upcoming [.engine] (running 0x103 3 4 5 0)).rstN = true ∧ (upcoming [.engine] (running 0x103 3 4 5 0)).seq = .busy ∧
    ¬ Legal (upcoming [.engine] (running 0x103 3 4 5 0)).cmd ∧
    (upcoming [.engine] (running 0x103 3 4 5 0)).schedule = .engine :: [] := ⟨rfl, rfl, by decide, rfl⟩

/-- Both schedules of the statement; the second with a command that completes. -/
theorem witness_firstStatusReadAfterAcceptance :
    (marked 3 4 5 0).rstN = true ∧ (marked 3 4 5 0).seq = .idle ∧
    (upcoming [wr 0x008 1, rd 0x00C] (marked 3 4 5 0)).schedule =
      .transfer (.write 0x008 1 0b1111) :: .transfer (.read 0x00C) :: [] ∧
    (upcoming [wr 0x008 1, .engine, rd 0x00C] (marked 3 4 5 0)).schedule =
      .transfer (.write 0x008 1 0b1111) :: .engine :: .transfer (.read 0x00C) :: [] := ⟨rfl, rfl, rfl, rfl⟩

/-- The two ends of its second clause: DONE, and an MRTEST without words (row T10). -/
theorem witness_firstStatusRead_both_ends :
    see State.trace (core.run 3 (upcoming [wr 0x008 1, .engine, rd 0x00C] (marked 3 4 5 0))) =
      some [.writeDone 0x008, .readData 0x00C 0x00000002] ∧
    see State.trace (core.run 3 (upcoming [wr 0x008 0x106, .engine, rd 0x00C] (marked 1891 0 0 0))) =
      some [.writeDone 0x008, .readData 0x00C 0x00000001] := by
  constructor <;> decide +kernel

/-- Row T10: a starved MRTEST. -/
def starved : State := offered [0x7FF] (running 0x0106 1891 0 0 0)

theorem starved_step : see id (step starved) = some { starved with rng := [] } := by decide +kernel

/-- What `see` shows is the next state. -/
theorem next_of_see {o : Host.Outcome State Fault Refusal} {t : State} (h : see id o = some t) : o = .next t := by
  cases o with
  | next s => simp only [see, id, Option.some.injEq] at h; rw [h]
  | fault f => cases h
  | refused r => cases h

theorem witness_busyStateIsStable :
    step starved = .next { starved with rng := [] } ∧ starved.seq = .busy ∧
    ({ starved with rng := [] } : State).seq = .busy := ⟨next_of_see starved_step, rfl, rfl⟩

/-- Both ends of the statement: the engine's idle turn, and each event that clears the results. -/
theorem witness_resultsHoldBetweenCommands :
    step (marked 3 4 5 0) = .next (marked 3 4 5 0) ∧ (marked 3 4 5 0).seq = .idle ∧
    (∀ e ∈ [progSrst, .together (.write 0x014 1 0b1111), .resetAssert],
      see (fun s => (s.seq, s.r, s.info)) (step (upcoming [e] (marked 3 4 5 0))) = some (.idle, 0, 0)) :=
  ⟨rfl, rfl, by decide +kernel⟩

theorem witness_idleTurnAndOfferChangeNothing :
    (marked 3 4 5 0).seq = .idle ∧ (marked 3 4 5 0).schedule = [] ∧
    (upcoming [.engine] (marked 3 4 5 0)).seq = .idle ∧
    (upcoming [.engine] (marked 3 4 5 0)).schedule = .engine :: [] ∧
    (upcoming [.offer [7]] (running 0x01 3 4 5 0)).schedule = .offer [7] :: [] := ⟨rfl, rfl, rfl, rfl, rfl⟩

/-- The first address above the block, and the last below it where BASE, whose value no proof sees, is not 0. -/
theorem witness_blockAddresses :
    Config.base + 4096 ≤ Config.base + 4096 ∧ (Config.base = 0 ∨ Config.base - 1 < Config.base) := by omega

/-- Each kind of error offset at its bounds, and the strobes. -/
theorem witness_errorTransfersChangeNothing :
    (upcoming [rd 0x020] (marked 3 4 5 0)).rstN = true ∧
    (0x001#12).toNat % 4 ≠ 0 ∧ (0xFFF#12).toNat % 4 ≠ 0 ∧
    (0x020 ≤ (0x020#12).toNat ∧ (0x020#12).toNat ≤ 0x1FC) ∧ (0x020 ≤ (0x1FC#12).toNat ∧ (0x1FC#12).toNat ≤ 0x1FC) ∧
    0xC00 ≤ (0xC00#12).toNat ∧ 0xC00 ≤ (0xFFC#12).toNat ∧ (0b0111#4 : BitVec 4) ≠ 0b1111 ∧
    (upcoming [rd 0x020] (marked 3 4 5 0)).schedule = .transfer (.read 0x020) :: [] ∧
    (upcoming [.transfer (.write 0x200 7 0b0111)] (marked 3 4 5 0)).schedule =
      .transfer (.write 0x200 7 0b0111) :: [] :=
  ⟨rfl, by decide, by decide, by decide, by decide, by decide, by decide, by decide, rfl, rfl⟩

theorem witness_readsHaveNoSideEffect :
    (upcoming [rd 0x01C, rd 0x01C] (marked 3 4 5 0)).schedule =
      .transfer (.read 0x01C) :: .transfer (.read 0x01C) :: [] := rfl

theorem witness_controlRegisterReads :
    ∀ off ∈ ([0x000, 0x004, 0x008, 0x00C, 0x010, 0x014, 0x018, 0x01C] : List Offset),
      (upcoming [rd off] (marked 3 4 5 0)).rstN = true ∧
      (upcoming [rd off] (marked 3 4 5 0)).schedule = .transfer (.read off) :: [] ∧
      Config.ValidNwords (marked 3 4 5 0).nwords := fun _ _ => ⟨rfl, rfl, by decide⟩

/-- CMD holding a word with RSV 0, and one with RSV not 0. -/
theorem witness_cmdReads :
    (∀ c ∈ ([0, 0x0806, 0x00010001, 0xFFFFFFFF] : List Word), (upcoming [rd 0x008] (running c 3 4 5 0)).rstN = true) ∧
    rsvField (running 0x0806 3 4 5 0).cmd = 0 ∧ rsvField (running 0x00010001 3 4 5 0).cmd ≠ 0 :=
  ⟨fun _ _ => rfl, by decide, by decide⟩

/-- The last word below NWORDS, the first at it, and the last of the window. -/
theorem witness_windowWordReads :
    (∀ k ∈ [1, 2, 127], k < 128 ∧ (upcoming [rd (BitVec.ofNat 12 (Operand.window .a + 4 * k))] (marked 3 4 5 0)).rstN =
      true ∧ (upcoming [rd (BitVec.ofNat 12 (Operand.window .a + 4 * k))] (marked 3 4 5 0)).schedule =
        .transfer (.read (BitVec.ofNat 12 (Operand.window .a + 4 * k))) :: []) ∧
    1 < (marked 3 4 5 0).nwords ∧ (marked 3 4 5 0).nwords ≤ 2 :=
  ⟨fun k hk => ⟨by fin_cases hk <;> decide, rfl, rfl⟩, by decide, by decide⟩

theorem witness_idleOperandWrite :
    (∀ k ∈ [1, 2, 127], k < 128 ∧ (marked 3 4 5 0).rstN = true ∧ (marked 3 4 5 0).seq = .idle ∧ Operand.x ≠ .r ∧
      (upcoming [wr (BitVec.ofNat 12 (Operand.window .x + 4 * k)) 9] (marked 3 4 5 0)).schedule =
        .transfer (.write (BitVec.ofNat 12 (Operand.window .x + 4 * k)) 9 0b1111) :: []) ∧
    1 < (marked 3 4 5 0).nwords ∧ (marked 3 4 5 0).nwords ≤ 2 :=
  ⟨fun k hk => ⟨by fin_cases hk <;> decide, rfl, rfl, by decide, rfl⟩, by decide, by decide⟩

theorem witness_valueIsSumOfWords :
    (marked 0xFFFFFFFFFFFFFFFF 4 5 0).operand .a < 2 ^ (32 * (marked 3 4 5 0).nwords) := by
  decide +kernel

theorem witness_operandBytesAreLittleEndian : 7 < 8 := by decide

theorem witness_loadSetsWholeOperand :
    (marked 3 4 5 0).rstN = true ∧ (marked 3 4 5 0).seq = .idle ∧ Operand.b ≠ .r ∧
    Config.ValidNwords (marked 3 4 5 0).nwords ∧
    (marked 3 4 5 0).operand .b < 2 ^ (32 * (marked 3 4 5 0).nwords) ∧
    0xFFFFFFFFFFFFFFFF < 2 ^ (32 * (marked 3 4 5 0).nwords) ∧
    (upcoming (progLd 2 .b 0xFFFFFFFFFFFFFFFF ++ [progWait]) (marked 3 4 5 0)).schedule =
      progLd (marked 3 4 5 0).nwords .b 0xFFFFFFFFFFFFFFFF ++ [progWait] :=
  ⟨rfl, rfl, by decide, by decide, by decide +kernel, by decide +kernel, rfl⟩

/-- Each clause's offsets at their bounds, and both values of SRST. -/
theorem witness_writesWhileBusy :
    (∀ off ∈ ([0x000, 0x004, 0x008, 0x00C, 0x010, 0x014, 0x018, 0x01C, 0x200, 0x9FC, 0xA00, 0xBFC] : List Offset),
      ∀ v ∈ ([0, 1] : List Word), (running 0x01 3 4 5 0).rstN = true ∧ (running 0x01 3 4 5 0).seq = .busy ∧
        off.toNat % 4 = 0 ∧ (upcoming [wr off v] (running 0x01 3 4 5 0)).schedule =
          .transfer (.write off v 0b1111) :: []) ∧
    (1 : Word).getLsbD 0 = true ∧ (0 : Word).getLsbD 0 = false :=
  ⟨fun off h _ _ => ⟨rfl, rfl, by fin_cases h <;> decide, rfl⟩, by decide, by decide⟩

theorem witness_readOnlyRegistersIgnoreWrites :
    ∀ off ∈ ([0x000, 0x004, 0x00C, 0x010, 0xA00, 0xBFC] : List Offset),
      (marked 3 4 5 0).rstN = true ∧ off.toNat % 4 = 0 ∧
      (off ∈ ([0x000, 0x004, 0x00C, 0x010] : List Offset) ∨ (0xA00 ≤ off.toNat ∧ off.toNat < 0xC00)) ∧
      (upcoming [wr off 9] (marked 3 4 5 0)).schedule = .transfer (.write off 9 0b1111) :: [] :=
  fun off h => ⟨rfl, by fin_cases h <;> decide, by fin_cases h <;> decide, rfl⟩

theorem witness_waitEndsWhenIdle :
    (upcoming [progWait] (marked 3 4 5 0)).rstN = true ∧ StatusCoherent (upcoming [progWait] (marked 3 4 5 0)) ∧
    (upcoming [progWait] (marked 3 4 5 0)).schedule = progWait :: [] ∧ (marked 3 4 5 0).seq = .idle ∧
    (upcoming [progWait] (running 0x01 3 4 5 0)).rstN = true ∧
    StatusCoherent (upcoming [progWait] (running 0x01 3 4 5 0)) ∧
    (upcoming [progWait] (running 0x01 3 4 5 0)).schedule = progWait :: [] ∧ (running 0x01 3 4 5 0).seq = .busy :=
  ⟨rfl, by decide, rfl, rfl, rfl, by decide, rfl, rfl⟩

theorem witness_interruptRegisterWrites :
    (marked 3 4 5 0).rstN = true ∧
    (upcoming [wr 0x018 7] (marked 3 4 5 0)).schedule = .transfer (.write 0x018 7 0b1111) :: [] ∧
    (upcoming [wr 0x01C 7] (marked 3 4 5 0)).schedule = .transfer (.write 0x01C 7 0b1111) :: [] := ⟨rfl, rfl, rfl⟩

/-- A busy state; the cases of R152 at their bounds: 5 and 4, X = n - 2 and n - 1, rounds 0 (rows M7, M8, M21, T1). -/
theorem witness_invalidArgumentExactly :
    (running 0x05 15 0 0 14).seq = .busy ∧ (running 0x05 15 0 0 14).x + 2 > (running 0x05 15 0 0 14).a ∧
    ¬ (running 0x05 5 0 0 3).a < 5 ∧ ¬ (running 0x05 5 0 0 3).x + 2 > (running 0x05 5 0 0 3).a ∧
    (running 0x01 3 4 0 0).m = 0 := by decide

theorem witness_noInverseExactly :
    1 ≤ (running 0x03 0 0 1 0).m ∧ Nat.gcd (running 0x03 0 0 1 0).a (running 0x03 0 0 1 0).m = 1 ∧
    1 ≤ (running 0x03 6 0 9 0).m ∧ Nat.gcd (running 0x03 6 0 9 0).a (running 0x03 6 0 9 0).m ≠ 1 := by decide +kernel

theorem witness_errorsArePrecise :
    (running 0x01 3 4 0 0).seq = .busy ∧ StatusCoherent (running 0x01 3 4 0 0) ∧
    engineTurn (running 0x01 3 4 0 0) = .next (raiseError .invalidArgument (running 0x01 3 4 0 0)) ∧
    errBit (raiseError .invalidArgument (running 0x01 3 4 0 0)).status = true :=
  ⟨rfl, by decide, rfl, by decide⟩

/-- The first clauses with an error, the third with a starved MRTEST too. -/
theorem witness_commandFrame :
    exec .modmul (running 0x01 3 4 0 0) = .next (raiseError .invalidArgument (running 0x01 3 4 0 0)) ∧
    (∀ rounds, Instr.modmul ≠ .mrtest rounds) ∧
    errBit (raiseError .invalidArgument (running 0x01 3 4 0 0)).status = true ∧
    (running 0x01 3 4 0 0).seq = .busy ∧ errBit (running 0x01 3 4 0 0).status = false ∧
    exec (.mrtest 1) starved = .next { starved with rng := [] } ∧ starved.seq = .busy :=
  ⟨rfl, by simp, by decide, rfl, by decide, next_of_see (by decide +kernel), rfl⟩

/-- Each clause: a completion with DONE_IE, an enabling write with DONE_IP, and a write that clears both bits. -/
theorem witness_interruptLevel :
    (∃ t, exec .modmul { running 0x01 3 4 5 0 with irqEn := 1 } = .next t ∧ t.seq = .idle) ∧
    (running 0x01 3 4 5 0).seq = .busy ∧ ({ running 0x01 3 4 5 0 with irqEn := 1 } : State).irqEn.getLsbD 0 = true ∧
    (marked 3 4 5 0).rstN = true ∧
    (∃ t, step (upcoming [wr 0x018 1] { marked 3 4 5 0 with irqStat := 1 }) = .next t) ∧
    ({ marked 3 4 5 0 with irqStat := 1 } : State).irqStat.getLsbD 0 = true ∧ (1 : Word).getLsbD 0 = true ∧
    (∃ t, step (upcoming [wr 0x01C 3] { marked 3 4 5 0 with irqStat := 3 }) = .next t) ∧
    (3 : Word).getLsbD 0 = true ∧ (3 : Word).getLsbD 1 = true :=
  ⟨⟨_, rfl, rfl⟩, rfl, by decide, rfl, ⟨_, rfl⟩, by decide, by decide, ⟨_, rfl⟩, by decide, by decide⟩

/-- With no command running: a CMD write at the edge. -/
theorem witness_sameEdgeEvents_idle :
    (upcoming [.together (.write 0x008 2 0b1111)] (marked 3 4 5 0)).rstN = true ∧
    (upcoming [.together (.write 0x008 2 0b1111)] (marked 3 4 5 0)).seq = .idle ∧
    (upcoming [.together (.write 0x008 2 0b1111)] (marked 3 4 5 0)).schedule =
      .together (.write 0x008 2 0b1111) :: [] := ⟨rfl, rfl, rfl⟩

/-- With a command running, a legal word and an illegal one: a read, an error write of each kind, and legal writes at
the bounds of each clause with both values of SRST. -/
theorem witness_sameEdgeEvents_busy :
    ∀ c ∈ ([0x00000001, 0x00010001] : List Word),
      (running c 3 4 5 0).rstN = true ∧ (running c 3 4 5 0).seq = .busy ∧
      (upcoming [.together (.read 0x00C)] (running c 3 4 5 0)).schedule = .together (.read 0x00C) :: [] ∧
      (∀ off ∈ ([0x001, 0x020, 0x1FC, 0xC00, 0xFFC] : List Offset),
        (off.toNat % 4 ≠ 0 ∨ (0x020 ≤ off.toNat ∧ off.toNat ≤ 0x1FC) ∨ 0xC00 ≤ off.toNat) ∧
        (upcoming [.together (.write off 7 0b1111)] (running c 3 4 5 0)).schedule =
          .together (.write off 7 0b1111) :: []) ∧
      (0b0111#4 ≠ 0b1111 ∧ (upcoming [.together (.write 0x200 7 0b0111)] (running c 3 4 5 0)).schedule =
        .together (.write 0x200 7 0b0111) :: []) ∧
      (∀ off ∈ ([0x000, 0x004, 0x008, 0x00C, 0x010, 0x014, 0x018, 0x01C, 0x200, 0x9FC, 0xA00, 0xBFC] : List Offset),
        ∀ v ∈ ([0, 1] : List Word), off.toNat % 4 = 0 ∧
          (upcoming [.together (.write off v 0b1111)] (running c 3 4 5 0)).schedule =
            .together (.write off v 0b1111) :: []) ∧
      (1 : Word).getLsbD 0 = true ∧ (0 : Word).getLsbD 0 = false :=
  fun _ _ => ⟨rfl, rfl, rfl, fun off h => ⟨by fin_cases h <;> decide, rfl⟩, ⟨by decide, rfl⟩,
    fun off h _ _ => ⟨by fin_cases h <;> decide, rfl⟩, by decide, by decide⟩

theorem witness_softReset :
    (running 0x01 3 4 5 0).rstN = true ∧ (1 : Word).getLsbD 0 = true ∧
    (upcoming [progSrst] (running 0x01 3 4 5 0)).schedule = .transfer (.write 0x014 1 0b1111) :: [] :=
  ⟨rfl, by decide, rfl⟩

theorem witness_powerOnReset :
    (upcoming [.resetAssert] (running 0x01 3 4 5 0)).schedule = .resetAssert :: [] ∧
    ({ upcoming [.engine] (State.powerOn 2) with rstN := false } : State).rstN = false ∧
    ({ upcoming [.engine] (State.powerOn 2) with rstN := false } : State).schedule = .engine :: [] ∧
    (upcoming [.resetRelease] (running 0x01 3 4 5 0)).schedule = .resetRelease :: [] := ⟨rfl, rfl, rfl, rfl⟩

theorem witness_transfersDuringReset :
    (powerOnReset (upcoming [rd 0x000] (marked 3 4 5 0))).rstN = false ∧
    (powerOnReset (upcoming [rd 0x000] (marked 3 4 5 0))).schedule = .transfer (.read 0x000) :: [] ∧
    (powerOnReset (upcoming [wr 0x200 7] (marked 3 4 5 0))).schedule = .transfer (.write 0x200 7 0b1111) :: [] :=
  ⟨rfl, rfl, rfl⟩

theorem witness_resetValues :
    Config.ValidNwords 2 ∧ Config.ValidNwords 128 ∧ State.reset = State.powerOn 32 := ⟨by decide, by decide, rfl⟩

theorem witness_modmulResult : 0 < (running 0x01 5 9 1 0).m ∧ (running 0x01 3 4 0 0).m = 0 := by decide
theorem witness_modexpResult : 0 < (running 0x02 0 0 7 0).m := by decide
theorem witness_modexpLaws : 0 < 1 := by decide
theorem witness_modinvResult :
    1 ≤ (running 0x03 0 0 1 0).m ∧ Nat.gcd (running 0x03 0 0 1 0).a (running 0x03 0 0 1 0).m = 1 ∧
    1 ≤ (running 0x03 0 0 7 0).m ∧ Nat.gcd (running 0x03 0 0 7 0).a (running 0x03 0 0 7 0).m ≠ 1 := by decide +kernel

theorem witness_prefilterSurvivors :
    exec .trialdiv (running 0x04 31 0 0 0) = .next (committed (running 0x04 31 0 0 0) 0 0 0x00000002 0x00000004) ∧
    (committed (running 0x04 31 0 0 0) 0 0 0x00000002 0x00000004).info = 0x00000004 :=
  ⟨next_of_see (by decide +kernel), rfl⟩

/-- An X out of range (row M21), a round that passes (row M7, the least legal n) and one that does not (row M15,
a = n - 2). -/
theorem witness_mrroundResult :
    (running 0x05 15 0 0 14).a < (running 0x05 15 0 0 14).x + 2 ∧
    (5 ≤ (running 0x05 5 0 0 2).a ∧ (running 0x05 5 0 0 2).a % 2 = 1 ∧ 2 ≤ (running 0x05 5 0 0 2).x ∧
      (running 0x05 5 0 0 2).x + 2 ≤ (running 0x05 5 0 0 2).a ∧ (running 0x05 5 0 0 2).a - 1 = 1 * 2 ^ 2 ∧ 1 % 2 = 1 ∧
      (2 ^ 1 % 5 = 1 ∨ ∃ i < 2, 2 ^ (1 * 2 ^ i) % 5 = 5 - 1)) ∧
    (5 ≤ (running 0x05 15 0 0 13).a ∧ (running 0x05 15 0 0 13).a % 2 = 1 ∧ 2 ≤ (running 0x05 15 0 0 13).x ∧
      (running 0x05 15 0 0 13).x + 2 ≤ (running 0x05 15 0 0 13).a ∧ (running 0x05 15 0 0 13).a - 1 = 7 * 2 ^ 1 ∧
      7 % 2 = 1 ∧ ¬ (13 ^ 7 % 15 = 1 ∨ ∃ i < 1, 13 ^ (7 * 2 ^ i) % 15 = 15 - 1)) := by decide +kernel

theorem witness_mrtestDecidedByPrefilter :
    1 ≤ 8 ∧ ∀ n ∈ [0, 1, 2, 29, 4, 561], ¬ Undecided (running 0x0806 n 0 0 0).a := by decide +kernel

/-- 31 with witnesses 2 and 7: `31 - 1 = 15 * 2`, and both powers to 15 are 1 or 30 (row T11's first two). -/
theorem witness_mrtestAllRoundsPass :
    Undecided 31 ∧ 31 - 1 = 15 * 2 ^ 1 ∧ 15 % 2 = 1 ∧ (running 0x0206 31 0 0 0).work = .fresh ∧
    [2].length + 1 ≤ 255 ∧ (∀ w ∈ [2] ++ [7], 2 ≤ w ∧ w + 2 ≤ 31 ∧ RoundPasses 31 w) ∧
    (offered [0, 5, 9] (running 0x0206 31 0 0 0)).rng = witnessWords 31 ([2] ++ [7]) ++ [9] := by
  refine ⟨by decide, by decide, by decide, rfl, by decide, ?_, by decide +kernel⟩
  intro w hw
  have h : ∀ w ∈ [2] ++ [7], 2 ≤ w ∧ w + 2 ≤ 31 ∧ (w ^ 15 % 31 = 1 ∨ ∃ i < 1, w ^ (15 * 2 ^ i) % 31 = 31 - 1) := by
    decide +kernel
  exact ⟨(h w hw).1, (h w hw).2.1, 15, 1, by decide, by decide, (h w hw).2.2⟩

/-- The only decomposition of 1890 is `945 * 2`. -/
theorem decomposition_1890 {d e : Nat} (h : 1891 - 1 = d * 2 ^ e) (hd : d % 2 = 1) : d = 945 ∧ e = 1 := by
  match e with
  | 0 => omega
  | 1 => omega
  | e + 2 => rw [show d * 2 ^ (e + 2) = 4 * (d * 2 ^ e) by ring] at h; omega

/-- Row T7: 1891 with witnesses 3, which passes, and 2, which does not. -/
theorem witness_mrtestStopsAtFailingRound :
    Undecided 1891 ∧ 1891 - 1 = 945 * 2 ^ 1 ∧ 945 % 2 = 1 ∧ (running 0x0206 1891 0 0 0).work = .fresh ∧
    [3].length < 2 ∧ 2 ≤ 255 ∧ (∀ w ∈ [3], 2 ≤ w ∧ w + 2 ≤ 1891 ∧ RoundPasses 1891 w) ∧ 2 ≤ 2 ∧ 2 + 2 ≤ 1891 ∧
    ¬ RoundPasses 1891 2 ∧
    (offered [1, 0] (running 0x0206 1891 0 0 0)).rng = witnessWords 1891 ([3] ++ [2]) ++ [] := by
  refine ⟨by decide +kernel, by decide, by decide, rfl, by decide, by decide, ?_, by decide, by decide, ?_,
    by decide +kernel⟩
  · intro w hw
    have h : ∀ w ∈ [3], 2 ≤ w ∧ w + 2 ≤ 1891 ∧ (w ^ 945 % 1891 = 1 ∨ ∃ i < 1, w ^ (945 * 2 ^ i) % 1891 = 1891 - 1) := by
      decide +kernel
    exact ⟨(h w hw).1, (h w hw).2.1, 945, 1, by decide, by decide, (h w hw).2.2⟩
  · rintro ⟨d, e, h, hd, hp⟩
    obtain ⟨rfl, rfl⟩ := decomposition_1890 h hd
    revert hp
    decide +kernel

/-- Both branches for 31: word 31 is discarded, word 27 accepted (program P3 and the bound n - 4). -/
theorem witness_samplingAttempt :
    31 ≤ 31 ∧ ([0x1F] : List Word).length = (Nat.size (31 - 4) + 31) / 32 ∧
    ¬ valueOfWords [0x1F] % 2 ^ Nat.size (31 - 4) ≤ 31 - 4 ∧ valueOfWords [0x1B] % 2 ^ Nat.size (31 - 4) ≤ 31 - 4 := by
  decide +kernel

theorem witness_witnessInRange :
    (running 0x0106 31 0 0 0).seq = .busy ∧ 1 ≤ 1 ∧ Undecided (running 0x0106 31 0 0 0).a ∧
    exec (.mrtest 1) (offered [0x1B] (running 0x0106 31 0 0 0)) =
      .next (committed (running 0x0106 31 0 0 0) 1 29 0x0000000A 0x00010106) ∧
    (committed (running 0x0106 31 0 0 0) 1 29 0x0000000A 0x00010106).seq = .idle :=
  ⟨rfl, by decide, by decide, next_of_see (by decide +kernel), rfl⟩

/-- Both clauses: no word offered, and row T10. -/
theorem witness_starvedMrtestStaysBusy :
    starved.seq = .busy ∧ 1 ≤ 1 ∧ Undecided starved.a ∧ (offered [] starved).rng = [] ∧
    exec (.mrtest 1) starved = .next { starved with rng := [] } ∧ ({ starved with rng := [] } : State).seq ≠ .idle :=
  ⟨rfl, by decide, by decide +kernel, rfl, next_of_see (by decide +kernel), by decide⟩

/-- Row T7, its two words offered one after the other. -/
theorem witness_mrtestResumes :
    (running 0x0206 1891 0 0 0).seq = .busy ∧
    exec (.mrtest 2) { running 0x0206 1891 0 0 0 with rng := [1] } =
      .next { running 0x0206 1891 0 0 0 with work := ⟨1, []⟩ } ∧
    ({ running 0x0206 1891 0 0 0 with work := ⟨1, []⟩ } : State).seq = .busy :=
  ⟨rfl, next_of_see (by decide +kernel), rfl⟩

/-- A prime of the small set and one that draws. -/
theorem witness_primeIsNeverRejected :
    (running 0x0106 2 0 0 0).seq = .busy ∧ 1 ≤ 1 ∧ (running 0x0106 2 0 0 0).a.Prime ∧
    exec (.mrtest 1) (running 0x0106 2 0 0 0) = .next (committed (running 0x0106 2 0 0 0) 1 0 0x0000000A 0x00000002) ∧
    (running 0x0106 31 0 0 0).a.Prime ∧
    exec (.mrtest 1) (offered [0x1B] (running 0x0106 31 0 0 0)) =
      .next (committed (running 0x0106 31 0 0 0) 1 29 0x0000000A 0x00010106) :=
  ⟨rfl, by decide, Nat.prime_two, next_of_see (by decide +kernel), by show Nat.Prime 31; norm_num,
    next_of_see (by decide +kernel)⟩

theorem witness_primePassesEveryRound :
    (running 0x05 5 0 0 3).a.Prime ∧ 5 ≤ (running 0x05 5 0 0 3).a ∧ 2 ≤ (running 0x05 5 0 0 3).x ∧
    (running 0x05 5 0 0 3).x + 2 ≤ (running 0x05 5 0 0 3).a := ⟨Nat.prime_five, by decide, by decide, by decide⟩

/-- Both clauses: 561, which the prefilter decides, and 1891 with witnesses 3 and 2. -/
theorem witness_mrtestIsTrialdivThenRounds :
    (running 0x0206 1891 0 0 0).seq = .busy ∧ (running 0x0206 1891 0 0 0).work = .fresh ∧ [3, 2] ≠ [] ∧
    exec .trialdiv (running 0x0206 561 0 0 0) = .next (committed (running 0x0206 561 0 0 0) 0 0 0x00000002 0x00000003) ∧
    (0x00000003 : Word) ≠ 0x00000004 ∧
    exec .trialdiv (offered [1, 0] (running 0x0206 1891 0 0 0)) =
      .next (committed (offered [1, 0] (running 0x0206 1891 0 0 0)) 0 0 0x00000002 0x00000004) ∧
    (∀ w ∈ [3, 2], 2 ≤ w ∧ w + 2 ≤ (running 0x0206 1891 0 0 0).a) ∧
    (offered [1, 0] (running 0x0206 1891 0 0 0)).rng = witnessWords 1891 [3, 2] ++ [] :=
  ⟨rfl, rfl, by decide, next_of_see (by decide +kernel), by decide, next_of_see (by decide +kernel), by decide,
    by decide +kernel⟩

/-- The invariants' hypotheses at a busy machine whose command completes in the step, and at reset. -/
theorem witness_invariants :
    RegistersInRange (running 0x01 3 4 5 0) ∧ StatusCoherent (running 0x01 3 4 5 0) ∧
    IrqReservedZero (running 0x01 3 4 5 0) ∧
    step (running 0x01 3 4 5 0) = .next (committed (running 0x01 3 4 5 0) 2 0 0x00000002 0) ∧
    Inv State.reset ∧ step State.reset = .next State.reset :=
  ⟨by decide +kernel, by decide, by decide, next_of_see (by decide +kernel), reset_inv, rfl⟩

/-- A legal state in which a command is running, its word legal. -/
theorem witness_legalStates :
    Legal (accept 0x00000806 (State.powerOn 2)).cmd ∧ Inv (accept 0x00000806 (State.powerOn 2)) ∧
    step (accept 0x00000806 (State.powerOn 2)) = .next (committed (accept 0x00000806 (State.powerOn 2)) 0 0 2 1) :=
  ⟨by decide, ⟨by decide +kernel, by decide, by decide, .inl rfl, by decide, by decide, fun h => absurd h (by decide)⟩,
    next_of_see (by decide +kernel)⟩

end Sys2Proof.Tests
end

section
/-! PROOFS of the family 00_scope: the block's addresses, and the range of the W-bit registers. -/

namespace Sys2Proof.Machine

/-! ## The platform's address decoder -/

/-- The decoder takes an address of the block to its offset (R63). -/
theorem paddrOf_base_add (off : Offset) : Config.paddrOf (Config.base + off.toNat) = some off := by
  have hoff : off.toNat < 4096 := off.isLt
  rw [Config.paddrOf, if_pos (by omega), Nat.add_sub_cancel_left, BitVec.ofNat_toNat, BitVec.setWidth_eq]

/-- The decoder selects the block at no address outside it (R63, log entry 4). -/
theorem paddrOf_outside {addr : Nat} (h : addr < Config.base ∨ Config.base + 4096 ≤ addr) :
    Config.paddrOf addr = none := by
  rw [Config.paddrOf, if_neg (by omega)]

/-- Settles O14: BASE is a whole number of pages, and the decoder's one test is membership of the block. -/
theorem blockAddresses : Obligations.BlockAddresses :=
  ⟨Nat.mul_mod_right 4096 Config.basePage, paddrOf_base_add, fun _ => paddrOf_outside⟩

/-! ## The witnesses of an MRTEST -/

/-- A number the prefilter leaves undecided is large enough for R135's range of witnesses (R127, R135). -/
theorem five_le_of_prefilter_pass {n : Nat} (h : prefilter n = .pass) : 5 ≤ n := by
  obtain ⟨htwo, hfactor⟩ := (prefilter_pass_iff n).mp h
  have h2 := hfactor 2 (by decide)
  have h3 := hfactor 3 (by decide)
  omega

/-- The last witness drawn where the rounds have decided. -/
def Rounds.witness : Rounds → Option Nat
  | .failed _ a _ => some a
  | .passed a _ => some a
  | .starved _ _ => none

/-- The witness that decides an MRTEST is one `drawWitness` gave, so it lies in `[2, n - 2]` (R133, R135). -/
theorem mrRounds_witness_range {n : Nat} (hn : 4 ≤ n) : ∀ more passed buffer words,
    ∀ a ∈ (mrRounds n more passed buffer words).witness, 2 ≤ a ∧ a + 2 ≤ n := by
  intro more
  induction more with
  | zero =>
    intro passed buffer words a ha
    cases hd : drawWitness n buffer words with
    | starved => simp [mrRounds, hd, Rounds.witness] at ha
    | drawn w rest =>
      have hw : w = a := by
        simp only [mrRounds, hd] at ha
        split at ha <;> simpa [Rounds.witness] using ha
      exact hw ▸ drawWitness_range hn _ _ _ _ hd
  | succ more ih =>
    intro passed buffer words a ha
    cases hd : drawWitness n buffer words with
    | starved => simp [mrRounds, hd, Rounds.witness] at ha
    | drawn w rest =>
      simp only [mrRounds, hd] at ha
      split at ha
      · exact ih _ _ _ a ha
      · have hw : w = a := by simpa [Rounds.witness] using ha
        exact hw ▸ drawWitness_range hn _ _ _ _ hd

/-! ## What a command's completion step leaves in the W-bit registers -/

/-- `t` has the width and the operands A, B, M of `s`; R is kept, or is a residue mod M or a Boolean; X is kept, or is a
witness for A (R24, R25, R107, R108, R137). -/
structure CommandEffect (s t : State) : Prop where
  nwords : t.nwords = s.nwords
  a : t.a = s.a
  b : t.b = s.b
  m : t.m = s.m
  r : t.r = s.r ∨ t.r < s.m ∨ t.r ≤ 1
  x : t.x = s.x ∨ (2 ≤ t.x ∧ t.x + 2 ≤ s.a)

theorem CommandEffect.raiseError (e : ErrCode) (s : State) : CommandEffect s (raiseError e s) :=
  ⟨rfl, rfl, rfl, rfl, .inl rfl, .inl rfl⟩

/-- A modular command commits a residue and keeps X. -/
theorem CommandEffect.residue {r : Nat} {s : State} (hr : r < s.m) :
    CommandEffect s (complete r none 0 false s) :=
  ⟨rfl, rfl, rfl, rfl, .inr (.inl hr), .inl rfl⟩

/-- A primality command that draws no witness commits a Boolean and keeps X. -/
theorem CommandEffect.test (result : Bool) (info : Word) (s : State) :
    CommandEffect s (completeTest result none info s) :=
  ⟨rfl, rfl, rfl, rfl, .inr (.inr result.toNat_le), .inl rfl⟩

/-- An MRTEST that drew `w` commits a Boolean, leaves `w` in X, and takes words from the random source. -/
theorem CommandEffect.testWith {w : Nat} {s : State} (hw : 2 ≤ w ∧ w + 2 ≤ s.a) (result : Bool) (info : Word)
    (rest : List Word) : CommandEffect s (completeTest result (some w) info (setRng rest s)) :=
  ⟨rfl, rfl, rfl, rfl, .inr (.inr result.toNat_le), .inr hw⟩

/-- An MRTEST that waits for words changes no register (R137). -/
theorem CommandEffect.waits (w : Work) (ws : List Word) (s : State) : CommandEffect s (setWork w (setRng ws s)) :=
  ⟨rfl, rfl, rfl, rfl, .inl rfl, .inl rfl⟩

theorem execMrtest_effect {rounds : Nat} {s t : State} (h : execMrtest rounds s = .next t) : CommandEffect s t := by
  unfold execMrtest at h
  split at h
  · cases h; exact .raiseError _ s
  · split at h
    · cases h; exact .test _ _ s
    · next hpass =>
      have hrange := mrRounds_witness_range (n := s.a) (by have := five_le_of_prefilter_pass hpass; omega)
        (rounds - 1 - s.work.passed) s.work.passed s.work.buffer s.rng
      split at h
      · next hr => cases h; exact .testWith (hrange _ (by rw [hr]; rfl)) _ _ _
      · next hr => cases h; exact .testWith (hrange _ (by rw [hr]; rfl)) _ _ _
      · cases h; exact .waits _ _ s

theorem exec_effect {i : Instr} {s t : State} (h : exec i s = .next t) : CommandEffect s t := by
  cases i with
  | modmul =>
    simp only [exec, execModmul] at h
    split at h
    · cases h; exact .raiseError _ s
    · next hm => cases h; exact .residue (Nat.mod_lt _ (Nat.pos_of_ne_zero hm))
  | modexp =>
    simp only [exec, execModexp] at h
    split at h
    · cases h; exact .raiseError _ s
    · next hm =>
      cases h
      refine .residue ?_
      rw [modPow_eq]
      exact Nat.mod_lt _ (Nat.pos_of_ne_zero hm)
  | modinv =>
    simp only [exec, execModinv] at h
    split at h
    · cases h; exact .raiseError _ s
    · next hm =>
      split at h
      · cases h; exact .raiseError _ s
      · cases h
        have hlt := Int.emod_lt_of_pos (eea s.m s.a).2 (show (0 : Int) < s.m by omega)
        exact .residue (by omega)
  | trialdiv =>
    simp only [exec, execTrialdiv] at h
    split at h <;> (cases h; exact .test _ _ s)
  | mrround =>
    simp only [exec, execMrround] at h
    split at h
    · cases h; exact .raiseError _ s
    · split at h <;> (cases h; exact .test _ _ s)
  | mrtest rounds => exact execMrtest_effect h

/-! ## The width is fixed -/

/-- No bus write changes the width (R6). -/
theorem Writes.nwords_eq {s t : State} (h : Writes s t) : t.nwords = s.nwords := by
  cases h with
  | loads q k v _ => exact writeWord_nwords q k v s
  | _ => rfl

/-- No step changes the width (R6). -/
theorem step_nwords {s t : State} (h : step s = .next t) : t.nwords = s.nwords :=
  step_keeps (P := fun u => u.nwords = s.nwords)
    (schedule := fun _ _ hu => hu)
    (response := fun _ _ hu => hu)
    (writes := fun _ _ _ hu hw => hw.nwords_eq.trans hu)
    (command := fun _ _ _ _ _ hu _ he => (exec_effect he).nwords.trans hu)
    (illegal := fun _ _ _ hu => hu)
    (offer := fun _ _ hu => hu)
    (assert := fun _ hu => hu)
    (release := fun _ hu => hu)
    rfl h

/-! ## The W-bit registers stay in range -/

/-- The range rule, said of the five registers at once. -/
theorem registersInRange_iff (s : State) :
    RegistersInRange s ↔ Config.ValidNwords s.nwords ∧ ∀ q, s.operand q < 2 ^ (32 * s.nwords) := by
  constructor
  · rintro ⟨hvalid, ha, hb, hm, hx, hr⟩
    refine ⟨hvalid, fun q => ?_⟩
    cases q with
    | a => exact ha
    | b => exact hb
    | m => exact hm
    | x => exact hx
    | r => exact hr
  · rintro ⟨hvalid, hq⟩
    exact ⟨hvalid, hq .a, hq .b, hq .m, hq .x, hq .r⟩

/-- A window write sets a word below NWORDS, so it stays below `2^W` (R27, R72). -/
theorem writeWord_inRange {s : State} (hs : RegistersInRange s) (q : Operand) (k : Nat) (v : Word) :
    RegistersInRange (writeWord q k v s) := by
  rw [registersInRange_iff] at hs ⊢
  obtain ⟨hvalid, hq⟩ := hs
  rw [writeWord_nwords]
  refine ⟨hvalid, fun p => ?_⟩
  rw [writeWord_operand]
  split
  · next hp =>
    obtain ⟨-, -, hk⟩ := hp
    exact setWord_lt (hq q) hk
  · exact hq p

theorem softReset_inRange {s : State} (hs : RegistersInRange s) : RegistersInRange (softReset s) := by
  obtain ⟨hvalid, ha, hb, hm, hx, -⟩ := hs
  exact ⟨hvalid, ha, hb, hm, hx, Nat.two_pow_pos _⟩

theorem powerOnReset_inRange {s : State} (hs : RegistersInRange s) : RegistersInRange (powerOnReset s) :=
  have zero := Nat.two_pow_pos (32 * s.nwords)
  ⟨hs.1, zero, zero, zero, zero, zero⟩

/-- A bus write keeps the range: only a window write and a soft reset touch a W-bit register. -/
theorem Writes.inRange {s t : State} (h : Writes s t) (hs : RegistersInRange s) : RegistersInRange t := by
  cases h with
  | loads q k v _ => exact writeWord_inRange hs q k v
  | resets => exact softReset_inRange hs
  | _ => exact hs

/-- A command keeps the range: a residue is below M, a witness below A, and a Boolean below `2^W` (R24, R25). -/
theorem CommandEffect.inRange {s t : State} (h : CommandEffect s t) (hs : RegistersInRange s) :
    RegistersInRange t := by
  obtain ⟨hvalid, ha, hb, hm, hx, hr⟩ := hs
  have one : 1 < 2 ^ (32 * s.nwords) := Nat.one_lt_two_pow (by omega)
  have hr' : t.r < 2 ^ (32 * s.nwords) := by rcases h.r with h | h | h <;> omega
  have hx' : t.x < 2 ^ (32 * s.nwords) := by rcases h.x with h | h <;> omega
  rw [RegistersInRange, h.nwords, h.a, h.b, h.m]
  exact ⟨hvalid, ha, hb, hm, hx', hr'⟩

/-- Every event keeps every W-bit register below `2^W` (R23, R24). -/
theorem step_inRange {s t : State} (hs : RegistersInRange s) (h : step s = .next t) : RegistersInRange t :=
  step_keeps (P := RegistersInRange)
    (schedule := fun _ _ hu => hu)
    (response := fun _ _ hu => hu)
    (writes := fun _ _ _ hu hw => hw.inRange hu)
    (command := fun _ _ _ _ _ hu _ he => (exec_effect he).inRange hu)
    (illegal := fun _ _ _ hu => hu)
    (offer := fun _ _ hu => hu)
    (assert := fun _ hu => powerOnReset_inRange hu)
    (release := fun _ hu => hu)
    hs h

/-- Settles O54: the range and the width are each kept by every kind of event, hence by every step. -/
theorem registersStayInRange : Obligations.RegistersStayInRange := fun _ _ hs h =>
  ⟨step_inRange hs h, step_nwords h⟩

end Sys2Proof.Machine
end

section
/-! PROOFS of the family 10_state: the register reads and writes, the resets, what a command leaves unchanged, and the
legal states. -/

namespace Sys2Proof.Machine

/-! ## STATUS and SEQ agree -/

/-- A power-on state that shows these values of STATUS and SEQ: for facts about the two fields alone. -/
def showing (status : Word) (seq : Seq) : State := { State.powerOn 2 with status := status, seq := seq }

theorem showing_busy_coherent : StatusCoherent (showing statusBusy .busy) := by decide

theorem showing_done_coherent (result : Bool) : StatusCoherent (showing (statusDone result) .idle) := by
  cases result <;> decide

theorem showing_error_coherent (e : ErrCode) : StatusCoherent (showing (statusError e) .idle) := by
  cases e <;> decide

theorem showing_zero_coherent : StatusCoherent (showing 0 .idle) := by decide

/-- Coherence is a rule of STATUS and SEQ alone. -/
theorem StatusCoherent.of_fields {s t : State} (h : StatusCoherent s) (hstatus : t.status = s.status)
    (hseq : t.seq = s.seq) : StatusCoherent t := by
  rw [StatusCoherent, hstatus, hseq]
  exact h

/-- A bus write accepts a command, resets, or leaves STATUS and SEQ alone. -/
theorem Writes.statusCoherent {s t : State} (h : Writes s t) (hs : StatusCoherent s) : StatusCoherent t := by
  cases h with
  | accepts c _ => exact showing_busy_coherent.of_fields rfl rfl
  | resets => exact showing_zero_coherent.of_fields rfl rfl
  | loads q k v _ => exact hs.of_fields (writeWord_status q k v s) (writeWord_seq q k v s)
  | _ => exact hs

/-- Each way a command's turn can end leaves STATUS and SEQ in agreement (R107, R108, R137). -/
theorem Completes.statusCoherent {s t : State} (h : Completes s t) (hs : StatusCoherent s) : StatusCoherent t := by
  cases h with
  | success r x info result ws => exact (showing_done_coherent result).of_fields rfl rfl
  | error e => exact (showing_error_coherent e).of_fields rfl rfl
  | waits w => exact hs

theorem completes_of_exec {i : Instr} {s t : State} (h : exec i s = .next t) : Completes s t := by
  obtain ⟨u, hu, hc⟩ := exec_completes i s
  rw [h] at hu
  cases hu
  exact hc

/-- Settles O55: acceptance, each kind of completion and each reset write STATUS and SEQ together, and nothing else
writes either. -/
theorem statusStaysCoherent : Obligations.StatusStaysCoherent := fun _ _ =>
  step_keeps (P := StatusCoherent)
    (schedule := fun _ _ hu => hu)
    (response := fun _ _ hu => hu)
    (writes := fun _ _ _ hu hw => hw.statusCoherent hu)
    (command := fun _ _ _ _ _ hu _ he => (completes_of_exec he).statusCoherent hu)
    (illegal := fun u _ _ hu => (Completes.error (s := u) .illegalCommand).statusCoherent hu)
    (offer := fun _ _ hu => hu)
    (assert := fun _ _ => showing_zero_coherent.of_fields rfl rfl)
    (release := fun _ hu => hu)

/-! ## The reserved bits of IRQ_EN and IRQ_STAT -/

/-- A write of a constant whose bits lie outside a mask keeps the masked bits 0. -/
theorem or_and_eq_zero {v c mask : Word} (hv : v &&& mask = 0) (hc : c &&& mask = 0) : (v ||| c) &&& mask = 0 := by
  rw [BitVec.and_or_distrib_right, hv, hc]
  rfl

/-- Clearing bits keeps the masked bits 0. -/
theorem and_and_eq_zero {v mask : Word} (c : Word) (hv : v &&& mask = 0) : v &&& c &&& mask = 0 := by
  rw [BitVec.and_assoc, BitVec.and_comm c, ← BitVec.and_assoc, hv]
  exact BitVec.zero_and

/-- The bits of IRQ_EN that a write sets are the ones that exist (R42). -/
theorem and_irqMask_reserved (v : Word) : v &&& irqMask &&& 0xFFFFFFFC = 0 := by
  rw [BitVec.and_assoc, show irqMask &&& 0xFFFFFFFC = 0 by decide]
  exact BitVec.and_zero

theorem Writes.irqReservedZero {s t : State} (h : Writes s t) (hs : IrqReservedZero s) : IrqReservedZero t := by
  obtain ⟨hen, hstat⟩ := hs
  cases h with
  | ignored _ => exact ⟨hen, or_and_eq_zero hstat (by decide)⟩
  | resets => exact ⟨hen, BitVec.zero_and⟩
  | enables v => exact ⟨and_irqMask_reserved v, hstat⟩
  | clears v => exact ⟨hen, and_and_eq_zero _ hstat⟩
  | loads q k v _ => rw [IrqReservedZero, writeWord_irqEn, writeWord_irqStat]; exact ⟨hen, hstat⟩
  | _ => exact ⟨hen, hstat⟩

theorem Completes.irqReservedZero {s t : State} (h : Completes s t) (hs : IrqReservedZero s) : IrqReservedZero t := by
  obtain ⟨hen, hstat⟩ := hs
  cases h with
  | success => exact ⟨hen, or_and_eq_zero hstat (by decide)⟩
  | error => exact ⟨hen, or_and_eq_zero hstat (by decide)⟩
  | waits => exact ⟨hen, hstat⟩

/-- Settles O56: every write of IRQ_EN or IRQ_STAT sets DONE_IP or OVR_IP, masks, or clears. -/
theorem irqReservedBitsStayZero : Obligations.IrqReservedBitsStayZero := fun _ _ =>
  step_keeps (P := IrqReservedZero)
    (schedule := fun _ _ hu => hu)
    (response := fun _ _ hu => hu)
    (writes := fun _ _ _ hu hw => hw.irqReservedZero hu)
    (command := fun _ _ _ _ _ hu _ he => (completes_of_exec he).irqReservedZero hu)
    (illegal := fun u _ _ hu => (Completes.error (s := u) .illegalCommand).irqReservedZero hu)
    (offer := fun _ _ hu => hu)
    (assert := fun _ _ => ⟨BitVec.zero_and, BitVec.zero_and⟩)
    (release := fun _ hu => hu)

/-! ## What a command's completion step answers -/

/-- The Boolean result that goes with a class (R40). -/
def PrimeClass.result : PrimeClass → Bool
  | .belowTwo => false
  | .smallPrime => true
  | .smallFactor => false
  | .prefilterPass => false
  | .mrComposite => false
  | .mrProbablePrime => true

/-- What the prefilter decides is one of the first three classes, with the class's result (R40, R127). -/
theorem prefilter_decided {n : Nat} {c : PrimeClass} {result : Bool} (h : prefilter n = .decided c result) :
    result = c.result ∧ c.code.toNat ≤ 4 := by
  unfold prefilter at h
  split_ifs at h <;> cases h <;> decide

/-- A draw that runs out of words holds less than one attempt's (R136). -/
theorem drawWitness_starved {n : Nat} : ∀ {words buffer held}, buffer.length < attemptWords n →
    drawWitness n buffer words = .starved held → held.length < attemptWords n := by
  intro words
  induction words with
  | nil => intro buffer held hlt h; simp only [drawWitness] at h; cases h; exact hlt
  | cons w ws ih =>
    intro buffer held hlt h
    rw [drawWitness] at h
    simp only at h
    split_ifs at h with hmore
    · exact ih hmore h
    · exact ih (by rw [List.length_nil]; omega) h

/-- The round that fails is counted from the rounds passed before, and is one of those still to do (R133). -/
theorem mrRounds_failed {n : Nat} : ∀ {more passed buffer words i a rest},
    mrRounds n more passed buffer words = .failed i a rest → passed < i ∧ i ≤ passed + more + 1 := by
  intro more
  induction more with
  | zero =>
    intro passed buffer words i a rest h
    rw [mrRounds] at h
    split at h
    · cases h
    · split at h <;> cases h
      omega
  | succ more ih =>
    intro passed buffer words i a rest h
    rw [mrRounds] at h
    split at h
    · cases h
    · split at h
      · have := ih h; omega
      · cases h; omega

/-- Rounds that run out of words are short of the command's, and hold less than one attempt's words (R133, R136). -/
theorem mrRounds_starved {n : Nat} : ∀ {more passed buffer words passed' held}, buffer.length < attemptWords n →
    mrRounds n more passed buffer words = .starved passed' held →
    passed' ≤ passed + more ∧ held.length < attemptWords n := by
  intro more
  induction more with
  | zero =>
    intro passed buffer words passed' held hlt h
    rw [mrRounds] at h
    split at h
    · next hd => cases h; exact ⟨le_rfl, drawWitness_starved hlt hd⟩
    · split at h <;> cases h
  | succ more ih =>
    intro passed buffer words passed' held hlt h
    rw [mrRounds] at h
    split at h
    · next hd => cases h; exact ⟨Nat.le_add_right _ _, drawWitness_starved hlt hd⟩
    · split at h
      · have next := ih (by rw [List.length_nil]; omega) h
        omega
      · cases h

/-- What the completion step of each command can answer: an error, a residue, the prefilter's class, the class of one
round or of the rounds of an MRTEST, or an MRTEST that waits with its work short of the command's (R107, R108, R131 to
R137). -/
inductive Answers (s : State) : Instr → State → Prop where
  | error (i : Instr) (e : ErrCode) (hi : ∀ n, i = .mrtest n → n = 0) : Answers s i (raiseError e s)
  | residue (i : Instr) (r : Nat) (hi : ∀ n, i ≠ .mrtest n) : Answers s i (complete r none 0 false s)
  | prefiltered (i : Instr) (c : PrimeClass) (hc : c.code.toNat ≤ 4)
      (hi : ∀ n, i = .mrtest n → prefilter s.a ≠ .pass) :
      Answers s i (completeTest c.result none (infoWord c 0 0) s)
  | round (c : PrimeClass) (hc : 5 ≤ c.code.toNat) (ha : 5 ≤ s.a) :
      Answers s .mrround (completeTest c.result none (infoWord c 1 (decomp s.a).2) s)
  | rounds (n : Nat) (c : PrimeClass) (k w : Nat) (rest : List Word) (hn : n ≠ 0) (hpass : prefilter s.a = .pass)
      (hc : 5 ≤ c.code.toNat) (hk : s.work.passed < n → 0 < k ∧ k ≤ n) (hw : 2 ≤ w ∧ w + 2 ≤ s.a) :
      Answers s (.mrtest n)
        (completeTest c.result (some w) (infoWord c k (decomp s.a).2) (setRng rest s))
  | waits (n passed : Nat) (held : List Word) (hn : n ≠ 0) (hpass : prefilter s.a = .pass)
      (hshort : s.work.passed < n → s.work.buffer.length < attemptWords s.a →
        passed < n ∧ held.length < attemptWords s.a) :
      Answers s (.mrtest n) (setWork ⟨passed, held⟩ (setRng [] s))

theorem execMrtest_answers {n : Nat} {s t : State} (h : execMrtest n s = .next t) : Answers s (.mrtest n) t := by
  unfold execMrtest at h
  split at h
  · next hn => cases h; exact .error _ _ fun k hk => by cases hk; exact hn
  · next hn =>
    split at h
    · next hdecided =>
      obtain ⟨rfl, hc⟩ := prefilter_decided hdecided
      cases h
      exact .prefiltered _ _ hc fun _ _ => by simp [hdecided]
    · next hpass =>
      have hrange := mrRounds_witness_range (n := s.a) (by have := five_le_of_prefilter_pass hpass; omega)
        (n - 1 - s.work.passed) s.work.passed s.work.buffer s.rng
      split at h
      · next hr =>
        cases h
        have hcount := mrRounds_failed hr
        exact .rounds n .mrComposite _ _ _ hn hpass (by decide) (by omega) (hrange _ (by rw [hr]; rfl))
      · next hr =>
        cases h
        exact .rounds n .mrProbablePrime _ _ _ hn hpass (by decide) (by omega) (hrange _ (by rw [hr]; rfl))
      · next hr =>
        cases h
        refine .waits n _ _ hn hpass fun hlt hbuffer => ?_
        have hstarved := mrRounds_starved hbuffer hr
        omega

theorem exec_answers {i : Instr} {s t : State} (h : exec i s = .next t) : Answers s i t := by
  cases i with
  | modmul =>
    simp only [exec, execModmul] at h
    split at h
    · cases h; exact .error _ _ nofun
    · cases h; exact .residue _ _ nofun
  | modexp =>
    simp only [exec, execModexp] at h
    split at h
    · cases h; exact .error _ _ nofun
    · cases h; exact .residue _ _ nofun
  | modinv =>
    simp only [exec, execModinv] at h
    split at h
    · cases h; exact .error _ _ nofun
    · split at h
      · cases h; exact .error _ _ nofun
      · cases h; exact .residue _ _ nofun
  | trialdiv =>
    simp only [exec, execTrialdiv] at h
    split at h
    · next hdecided =>
      obtain ⟨rfl, hc⟩ := prefilter_decided hdecided
      cases h
      exact .prefiltered _ _ hc nofun
    · cases h; exact .prefiltered _ .prefilterPass (by decide) nofun
  | mrround =>
    simp only [exec, execMrround] at h
    split at h
    · cases h; exact .error _ _ nofun
    · split at h
      · cases h; exact .round .mrProbablePrime (by decide) (by omega)
      · cases h; exact .round .mrComposite (by decide) (by omega)
  | mrtest n => exact execMrtest_answers h

/-! ## What no command changes -/

/-- DONE_IP is the only IRQ_STAT bit a completion sets (R107, R108). -/
theorem or_doneIp_other_bits (v : Word) : (v ||| doneIp) &&& 0xFFFFFFFE = v &&& 0xFFFFFFFE := by
  rw [BitVec.and_or_distrib_right, show doneIp &&& 0xFFFFFFFE = 0 by decide]
  exact BitVec.or_zero

theorem errBit_statusDone (result : Bool) : errBit (statusDone result) = false := by cases result <;> decide

/-- The operands, CMD, IRQ_EN, the pins, the model's own fields and OVR_IP outlive every completion step. -/
theorem Completes.frame {s t : State} (h : Completes s t) :
    t.nwords = s.nwords ∧ t.a = s.a ∧ t.b = s.b ∧ t.m = s.m ∧ t.cmd = s.cmd ∧ t.irqEn = s.irqEn ∧ t.rstN = s.rstN ∧
      t.schedule = s.schedule ∧ t.trace = s.trace ∧ t.irqStat &&& 0xFFFFFFFE = s.irqStat &&& 0xFFFFFFFE := by
  cases h with
  | success => exact ⟨rfl, rfl, rfl, rfl, rfl, rfl, rfl, rfl, rfl, or_doneIp_other_bits _⟩
  | error => exact ⟨rfl, rfl, rfl, rfl, rfl, rfl, rfl, rfl, rfl, or_doneIp_other_bits _⟩
  | waits => exact ⟨rfl, rfl, rfl, rfl, rfl, rfl, rfl, rfl, rfl, rfl⟩

/-- X and the random words are MRTEST's alone to change (R25, R136). -/
theorem Answers.keeps_x_and_rng {i : Instr} {s t : State} (h : Answers s i t) (hi : ∀ n, i ≠ .mrtest n) :
    t.x = s.x ∧ t.rng = s.rng := by
  cases h with
  | rounds n => exact absurd rfl (hi n)
  | waits n => exact absurd rfl (hi n)
  | _ => exact ⟨rfl, rfl⟩

/-- R, X and INFO are committed by a success alone (R74, R108). -/
theorem Completes.keeps_results {s t : State} (h : Completes s t) (ht : errBit t.status = true ∨ t.seq = .busy) :
    t.r = s.r ∧ t.x = s.x ∧ t.info = s.info := by
  cases h with
  | success r x info result ws =>
    rcases ht with herr | hbusy
    · rw [complete_status, errBit_statusDone] at herr
      cases herr
    · rw [complete_seq] at hbusy
      cases hbusy
  | error => exact ⟨rfl, rfl, rfl⟩
  | waits => exact ⟨rfl, rfl, rfl⟩

/-- Settles O30: each clause holds of every way a completion step can end. -/
theorem commandFrame : Obligations.CommandFrame := fun _ _ _ h =>
  ⟨(completes_of_exec h).frame, (exec_answers h).keeps_x_and_rng,
    fun ht _ _ => (completes_of_exec h).keeps_results ht⟩

/-- Settles O48: with rounds to do and an undecided A, the completion is that of the rounds, which commit a drawn
witness. -/
theorem witnessInRange : Obligations.WitnessInRange := by
  intro s t n hbusy hn hund h hidle
  cases exec_answers h with
  | error _ _ hzero => have := hzero n rfl; omega
  | residue _ _ hne => exact absurd rfl (hne n)
  | prefiltered _ _ _ hdecided => exact absurd ((prefilter_pass_iff s.a).mpr hund) (hdecided n rfl)
  | rounds _ _ _ w _ _ _ _ _ hw => exact ⟨hw.1, Nat.le_sub_of_add_le hw.2⟩
  | waits =>
    rw [setWork_seq, setRng_seq, hbusy] at hidle
    cases hidle

/-! ## While a command stays BUSY -/

/-- The registers a running command holds still: the operands, the results, CMD and STATUS (R26, R71, R74). -/
def heldRegisters (s : State) : Nat × Nat × Nat × Nat × Nat × Word × Word × Word :=
  (s.a, s.b, s.m, s.x, s.r, s.cmd, s.info, s.status)

/-- A command that has had a turn and is still BUSY is an MRTEST short of words, which has changed nothing here. -/
theorem Completes.held_of_busy {s t : State} (h : Completes s t) (ht : t.seq = .busy) :
    s.seq = .busy ∧ heldRegisters t = heldRegisters s := by
  cases h with
  | success => cases ht
  | error => cases ht
  | waits => exact ⟨ht, rfl⟩

theorem engineTurn_held {s t : State} (h : engineTurn s = .next t) (ht : t.seq = .busy) :
    s.seq = .busy ∧ heldRegisters t = heldRegisters s := by
  obtain ⟨u, hu, hcases⟩ := engineTurn_cases s
  rw [h] at hu
  cases hu
  rcases hcases with rfl | hc
  · exact ⟨ht, rfl⟩
  · exact hc.held_of_busy ht

/-- A write that finds the engine BUSY is ignored, resets, or is to an interrupt register (R73). -/
theorem Writes.held_of_busy {s t : State} (h : Writes s t) (hs : s.seq = .busy) (ht : t.seq = .busy) :
    heldRegisters t = heldRegisters s := by
  cases h with
  | accepts _ hidle => rw [hs] at hidle; cases hidle
  | loads _ _ _ hidle => rw [hs] at hidle; cases hidle
  | resets => cases ht
  | _ => rfl

theorem busTransfer_held {tr : Transfer} {s : State} (hs : s.seq = .busy) (ht : (busTransfer tr s).seq = .busy) :
    heldRegisters (busTransfer tr s) = heldRegisters s :=
  (effectOf_writes tr s).held_of_busy hs ht

/-- The read of a POLL is a transfer; what it does to the schedule shows in no register. -/
theorem pollRead_held (off : Offset) (mask val : Word) (s : State) :
    heldRegisters (pollRead off mask val s) = heldRegisters s := by
  unfold pollRead
  simp only
  split <;> rfl

theorem Steps.held_of_busy {s t : State} (h : Steps s t) (hs : s.seq = .busy) (ht : t.seq = .busy) :
    heldRegisters t = heldRegisters s := by
  cases h with
  | transfer tr => exact busTransfer_held hs ht
  | engine h => exact (engineTurn_held h ht).2
  | together tr _ h =>
    obtain ⟨hmid, hheld⟩ := engineTurn_held h ht
    exact hheld.trans (busTransfer_held hs hmid)
  | poll off mask val => exact pollRead_held off mask val s
  | resetAssert => cases ht
  | _ => rfl

/-- Settles O12: every kind of event holds these registers still between two BUSY states. -/
theorem busyStateIsStable : Obligations.BusyStateIsStable := by
  intro s t h hs ht
  have hheld : heldRegisters t = heldRegisters s := by
    rcases step_cases h with h | ⟨e, es, -, h⟩
    · exact h.held_of_busy hs ht
    · exact h.held_of_busy hs ht
  simpa only [heldRegisters, Prod.mk.injEq] using hheld

/-! ## Hidden work is a waiting MRTEST's -/

/-- A word that decodes to MRTEST carries its rounds in RND (R87, R92). -/
theorem decode_mrtest {c : Word} {n : Nat} (h : decode c = .ok (.mrtest n)) : n = (rndField c).toNat := by
  unfold decode decodeNoRounds at h
  split_ifs at h <;> cases h
  rfl

/-- `rng_ready` is 1 exactly while an MRTEST with rounds to do on an undecided number is BUSY (R136). -/
theorem rngReady_of_mrtest {s : State} {n : Nat} (hr : s.rstN = true) (hs : s.seq = .busy)
    (hd : decode s.cmd = .ok (.mrtest n)) (hn : n ≠ 0) (hpass : prefilter s.a = .pass) : rngReady s = true := by
  simp [rngReady, hr, hs, hd, hn, hpass]

theorem busy_of_rngReady {s : State} (h : rngReady s = true) : s.seq = .busy := by
  simp only [rngReady, Bool.and_eq_true, beq_iff_eq] at h
  exact h.1.2

/-- An attempt takes at least one word (R136). -/
theorem attemptWords_pos {n : Nat} (hn : 5 ≤ n) : 0 < attemptWords n := by
  have hbits : 0 < attemptBits n := by
    unfold attemptBits bitlength
    rw [if_neg (by omega)]
    omega
  unfold attemptWords
  omega

/-- A waiting or new MRTEST has rounds left to do and words left to take. -/
theorem WorkHeldByMrtest.short {s : State} {n : Nat} (h : WorkHeldByMrtest s) (hd : decode s.cmd = .ok (.mrtest n))
    (hn : n ≠ 0) (hpass : prefilter s.a = .pass) :
    s.work.passed < n ∧ s.work.buffer.length < attemptWords s.a := by
  rcases h with hfresh | ⟨-, hpassed, hbuffer⟩
  · rw [hfresh]
    exact ⟨Nat.pos_of_ne_zero hn, attemptWords_pos (five_le_of_prefilter_pass hpass)⟩
  · exact ⟨decode_mrtest hd ▸ hpassed, hbuffer⟩

/-- Acceptance and soft reset discard the hidden work; the operands and CMD of a running MRTEST are not written. -/
theorem Writes.workHeld {s t : State} (h : Writes s t) (hs : WorkHeldByMrtest s) : WorkHeldByMrtest t := by
  cases h with
  | accepts c _ => exact .inl rfl
  | resets => exact .inl rfl
  | loads q k v hidle =>
    rcases hs with hfresh | ⟨hready, -⟩
    · exact .inl ((writeWord_work q k v s).trans hfresh)
    · rw [busy_of_rngReady hready] at hidle
      cases hidle
  | _ => exact hs

theorem Answers.workHeld {i : Instr} {s t : State} (h : Answers s i t) (hr : s.rstN = true) (hseq : s.seq = .busy)
    (hd : decode s.cmd = .ok i) (hs : WorkHeldByMrtest s) : WorkHeldByMrtest t := by
  cases h with
  | waits n passed buffer hn hpass hshort =>
    obtain ⟨hpassed, hbuffer⟩ := WorkHeldByMrtest.short hs hd hn hpass
    obtain ⟨hpassed', hbuffer'⟩ := hshort hpassed hbuffer
    exact .inr ⟨rngReady_of_mrtest (n := n) hr hseq hd hn hpass, decode_mrtest hd ▸ hpassed', hbuffer'⟩
  | _ => exact .inl rfl

/-! ## What a success reports -/

/-- INFO bit by bit: S, RDONE, four zeros, CLASS (R39, R131). -/
theorem infoWord_getLsbD (c : PrimeClass) (k e j : Nat) : (infoWord c k e).getLsbD j =
    if j < 4 then c.code.getLsbD j else if j < 8 then false
    else if j < 16 then (BitVec.ofNat 8 k).getLsbD (j - 8) else (BitVec.ofNat 16 e).getLsbD (j - 16) := by
  grind [infoWord]

theorem classField_infoWord (c : PrimeClass) (k e : Nat) : classField (infoWord c k e) = c.code :=
  BitVec.extractLsb'_append_eq_right

theorem rdoneField_infoWord (c : PrimeClass) (k e : Nat) : rdoneField (infoWord c k e) = BitVec.ofNat 8 k := by
  apply BitVec.eq_of_getLsbD_eq
  intro j hj
  rw [rdoneField, BitVec.getLsbD_extractLsb', infoWord_getLsbD, if_neg (by omega), if_neg (by omega),
    if_pos (by omega), Nat.add_sub_cancel_left, decide_eq_true hj, Bool.true_and]

theorem sField_infoWord (c : PrimeClass) (k e : Nat) : sField (infoWord c k e) = BitVec.ofNat 16 e := by
  apply BitVec.eq_of_getLsbD_eq
  intro j hj
  rw [sField, BitVec.getLsbD_extractLsb', infoWord_getLsbD, if_neg (by omega), if_neg (by omega),
    if_neg (by omega), Nat.add_sub_cancel_left, decide_eq_true hj, Bool.true_and]

/-- A masked word is 0 where the word is 0 at every bit of the mask. -/
theorem and_eq_zero_iff {v mask : Word} :
    v &&& mask = 0 ↔ ∀ j < 32, mask.getLsbD j = true → v.getLsbD j = false := by
  constructor
  · intro h j _ hmask
    have hbit := congrArg (BitVec.getLsbD · j) h
    simpa [hmask] using hbit
  · intro h
    apply BitVec.eq_of_getLsbD_eq
    intro j hj
    cases hmask : mask.getLsbD j with
    | false => simp [hmask]
    | true => simp [h j hj hmask]

theorem infoWord_reserved (c : PrimeClass) (k e : Nat) : infoWord c k e &&& 0x000000F0 = 0 := by
  have mask : ∀ j < 32, (0x000000F0 : Word).getLsbD j = true → 4 ≤ j ∧ j < 8 := by decide
  rw [and_eq_zero_iff]
  intro j hj hmask
  obtain ⟨h4, h8⟩ := mask j hj hmask
  rw [infoWord_getLsbD, if_neg (by omega), if_pos h8]

theorem PrimeClass.code_le (c : PrimeClass) : c.code.toNat ≤ 6 := by cases c <;> decide

/-- The classes with result 1 are 2 and 6 (R40). -/
theorem PrimeClass.result_iff (c : PrimeClass) : c.result = true ↔ c.code = 2 ∨ c.code = 6 := by cases c <;> decide

theorem doneBit_statusDone (result : Bool) : doneBit (statusDone result) = true := by cases result <;> decide

theorem resultBit_statusDone (result : Bool) : resultBit (statusDone result) = result := by cases result <;> decide

/-- The INFO word of a primality command is legal where S fits the width and RDONE and S go with the class. -/
theorem infoLegal_of_infoWord {t : State} {c : PrimeClass} {k e : Nat} (ht : t.info = infoWord c k e) (hk : k < 256)
    (hclass : k ≠ 0 ↔ 5 ≤ c.code.toNat) (he : e < 32 * t.nwords) (hzero : c.code.toNat ≤ 4 → e = 0) :
    InfoLegal t := by
  have hs : (BitVec.ofNat 16 e).toNat < 32 * t.nwords :=
    (BitVec.toNat_ofNat _ _).trans_lt ((Nat.mod_le _ _).trans_lt he)
  have hrdone : BitVec.ofNat 8 k ≠ 0 ↔ k ≠ 0 := by
    rw [Ne, ← BitVec.toNat_inj, BitVec.toNat_ofNat, Nat.mod_eq_of_lt hk]
    rfl
  rw [InfoLegal, ht, classField_infoWord, rdoneField_infoWord, sField_infoWord]
  exact ⟨infoWord_reserved c k e, c.code_le, hs, hrdone.trans hclass, fun h => by rw [hzero h]; rfl⟩

/-- An INFO of 0 is legal on any machine with a word. -/
theorem infoLegal_zero {t : State} (ht : t.info = 0) (hn : 0 < t.nwords) : InfoLegal t := by
  rw [InfoLegal, ht]
  exact ⟨by decide, by decide, (show (sField 0).toNat = 0 by decide) ▸ (by omega), by decide, by decide⟩

/-- A completed primality command reports its class's result in STATUS and in R (R24, R38). -/
theorem resultReported_test (c : PrimeClass) (x : Option Nat) (k e : Nat) (s : State) :
    ResultReported (completeTest c.result x (infoWord c k e) s) := by
  intro _
  rw [completeTest, complete_status, complete_info, complete_r, resultBit_statusDone, classField_infoWord]
  exact ⟨c.result_iff, fun _ => rfl⟩

/-- A completed modular command reports class 0 and RESULT 0 (R110, R112, R116). -/
theorem resultReported_residue (r : Nat) (s : State) : ResultReported (complete r none 0 false s) := by
  intro _
  rw [complete_status, complete_info, resultBit_statusDone]
  exact ⟨by decide, fun h => absurd rfl h⟩

theorem resultReported_of_not_done {t : State} (h : doneBit t.status = false) : ResultReported t := by
  rintro ⟨hdone, -⟩
  rw [h] at hdone
  cases hdone

theorem resultReported_of_err {t : State} (h : errBit t.status = true) : ResultReported t := by
  rintro ⟨-, herr⟩
  rw [h] at herr
  cases herr

theorem errBit_statusError (e : ErrCode) : errBit (statusError e) = true := by cases e <;> decide

/-- The exponent of 2 in `a - 1` is below the number of bits of `a` (R39, R129). -/
theorem decomp_exponent_lt {a w : Nat} (ha : 3 ≤ a) (hw : a < 2 ^ w) : (decomp a).2 < w := by
  obtain ⟨d, e, heq, hodd⟩ := decomp_exists ha
  rw [decomp_eq ha heq hodd]
  have hle : 2 ^ e ≤ d * 2 ^ e := Nat.le_mul_of_pos_left _ (by omega)
  have hlt : 2 ^ e < 2 ^ w := by omega
  exact (Nat.pow_lt_pow_iff_right one_lt_two).mp hlt

/-- What a command's completion leaves in INFO, R and STATUS is legal: each class is reported with its result, its
rounds and its exponent (R39, R40). -/
theorem Answers.reportsLegally {i : Instr} {s t : State} (h : Answers s i t) (hd : decode s.cmd = .ok i)
    (hrange : RegistersInRange s) (hwork : WorkHeldByMrtest s) (hs : InfoLegal s ∧ ResultReported s) :
    InfoLegal t ∧ ResultReported t := by
  obtain ⟨⟨hn, -⟩, ha, -⟩ := hrange
  have exponent (h5 : 5 ≤ s.a) : (decomp s.a).2 < 32 * s.nwords := decomp_exponent_lt (by omega) ha
  cases h with
  | error e => exact ⟨hs.1, resultReported_of_err (errBit_statusError _)⟩
  | residue r => exact ⟨infoLegal_zero rfl (by rw [complete_nwords]; omega), resultReported_residue _ _⟩
  | prefiltered c hc hi =>
    exact ⟨infoLegal_of_infoWord rfl (by omega) (by omega) (show 0 < 32 * s.nwords by omega) fun _ => rfl,
      resultReported_test _ _ _ _ _⟩
  | round c hc h5 =>
    exact ⟨infoLegal_of_infoWord rfl (by omega) (by omega) (exponent h5) (by omega), resultReported_test _ _ _ _ _⟩
  | rounds n c k w rest hn0 hpass hc hk hw =>
    obtain ⟨hk0, hkn⟩ := hk (WorkHeldByMrtest.short hwork hd hn0 hpass).1
    have hn256 : n < 256 := decode_mrtest hd ▸ (rndField s.cmd).isLt
    exact ⟨infoLegal_of_infoWord rfl (by omega) (by omega) (exponent (five_le_of_prefilter_pass hpass)) (by omega),
      resultReported_test _ _ _ _ _⟩
  | waits => exact hs

/-- A bus write leaves INFO, R and STATUS alone, or STATUS shows no success after it. -/
theorem Writes.reportsLegally {s t : State} (h : Writes s t) (hrange : RegistersInRange s)
    (hs : InfoLegal s ∧ ResultReported s) : InfoLegal t ∧ ResultReported t := by
  obtain ⟨⟨hn, -⟩, -⟩ := hrange
  cases h with
  | accepts c _ => exact ⟨hs.1, resultReported_of_not_done (show doneBit statusBusy = false by decide)⟩
  | resets =>
    exact ⟨infoLegal_zero rfl (by rw [softReset_nwords]; omega),
      resultReported_of_not_done (show doneBit 0 = false by decide)⟩
  | loads q k v _ =>
    rw [InfoLegal, ResultReported, Succeeded, writeWord_nwords, writeWord_status, writeWord_info, writeWord_r]
    exact hs
  | _ => exact hs

/-! ## The legal states -/

/-- The state right after power-on reset of a machine of any width is legal (R51). -/
theorem powerOn_inv {n : Nat} (hn : Config.ValidNwords n) : Inv (State.powerOn n) :=
  have zero := Nat.two_pow_pos (32 * n)
  ⟨⟨hn, zero, zero, zero, zero, zero⟩, showing_zero_coherent.of_fields rfl rfl, ⟨BitVec.zero_and, BitVec.zero_and⟩,
    .inl rfl, infoLegal_zero rfl (by rw [powerOn_nwords]; omega),
    resultReported_of_not_done (show doneBit 0 = false by decide), nofun⟩

theorem referenceNwords_valid : Config.ValidNwords Config.referenceNwords := by decide

/-- Settles O58: the reference width is admissible. -/
theorem resetIsLegal : Obligations.ResetIsLegal := by
  unfold Obligations.ResetIsLegal State.reset
  exact ⟨powerOn_inv referenceNwords_valid, fun _ => powerOn_inv⟩

/-- The fall of `rst_n` gives the power-on values, held in reset. -/
theorem powerOnReset_inv {s : State} (hs : Inv s) : Inv (powerOnReset s) := by
  obtain ⟨⟨hn, -⟩, -⟩ := hs
  obtain ⟨hrange, hstatus, hirq, -, hinfo, hreported, -⟩ := powerOn_inv hn
  exact ⟨hrange, hstatus, hirq, .inl rfl, hinfo, hreported, fun _ => rfl⟩

theorem heldInReset_of_released {t : State} (h : t.rstN = true) : HeldInReset t := by
  intro hreset
  rw [h] at hreset
  cases hreset

theorem Writes.rstN_eq {s t : State} (h : Writes s t) : t.rstN = s.rstN := by
  cases h with
  | loads q k v _ => exact writeWord_rstN q k v s
  | _ => rfl

theorem Writes.inv {s t : State} (h : Writes s t) (hr : s.rstN = true) (hs : Inv s) : Inv t := by
  obtain ⟨hrange, hstatus, hirq, hwork, hinfo, hreported, -⟩ := hs
  obtain ⟨hinfo', hreported'⟩ := h.reportsLegally hrange ⟨hinfo, hreported⟩
  exact ⟨h.inRange hrange, h.statusCoherent hstatus, h.irqReservedZero hirq, h.workHeld hwork, hinfo', hreported',
    heldInReset_of_released (h.rstN_eq.trans hr)⟩

theorem exec_inv {i : Instr} {s t : State} (h : exec i s = .next t) (hr : s.rstN = true) (hseq : s.seq = .busy)
    (hd : decode s.cmd = .ok i) (hs : Inv s) : Inv t := by
  obtain ⟨hrange, hstatus, hirq, hwork, hinfo, hreported, -⟩ := hs
  have hc := completes_of_exec h
  have ha := exec_answers h
  obtain ⟨hinfo', hreported'⟩ := ha.reportsLegally hd hrange hwork ⟨hinfo, hreported⟩
  obtain ⟨-, -, -, -, -, -, hrst, -⟩ := hc.frame
  exact ⟨(exec_effect h).inRange hrange, hc.statusCoherent hstatus, hc.irqReservedZero hirq,
    ha.workHeld hr hseq hd hwork, hinfo', hreported', heldInReset_of_released (hrst.trans hr)⟩

/-- An error leaves the W-bit registers and INFO alone (R108). -/
theorem raiseError_inv {s : State} (e : ErrCode) (hr : s.rstN = true) (hs : Inv s) : Inv (raiseError e s) := by
  obtain ⟨hrange, hstatus, hirq, -, hinfo, -⟩ := hs
  exact ⟨hrange, (Completes.error e).statusCoherent hstatus, (Completes.error e).irqReservedZero hirq, .inl rfl, hinfo,
    resultReported_of_err (errBit_statusError e), heldInReset_of_released hr⟩

/-- What the source offers, the events to come and the host's record are no part of the rules (log entries 2, 7, 10). -/
theorem Inv.with_agents {s : State} (hs : Inv s) (ws : List Word) (es : List Event) (ps : List Response) :
    Inv { s with rng := ws, schedule := es, trace := ps } := by
  obtain ⟨hrange, hstatus, hirq, hwork, hinfo, hreported, hreset⟩ := hs
  refine ⟨hrange, hstatus, hirq, hwork, hinfo, hreported, fun hr => ?_⟩
  exact congrArg (fun u : State => { u with rng := ws, schedule := es, trace := ps }) (hreset hr)

/-- Outside reset the release changes nothing, and in reset no work is held. -/
theorem releaseReset_inv {s : State} (hs : Inv s) : Inv (releaseReset s) := by
  obtain ⟨hrange, hstatus, hirq, hwork, hinfo, hreported, hreset⟩ := hs
  refine ⟨hrange, hstatus, hirq, ?_, hinfo, hreported, heldInReset_of_released rfl⟩
  cases hr : s.rstN with
  | true => rwa [show releaseReset s = s by rw [releaseReset, ← hr]]
  | false => exact .inl (congrArg State.work (hreset hr))

/-- Settles O57: every kind of event keeps every part of the invariant. -/
theorem legalStatesAreKept : Obligations.LegalStatesAreKept := fun _ _ =>
  step_keeps (P := Inv)
    (schedule := fun u es hu => hu.with_agents u.rng es u.trace)
    (response := fun u p hu => hu.with_agents u.rng u.schedule (u.trace ++ [p]))
    (writes := fun _ _ hr hu hw => hw.inv hr hu)
    (command := fun _ _ _ hr hseq hu hd he => exec_inv he hr hseq hd hu)
    (illegal := fun _ hr _ hu => raiseError_inv _ hr hu)
    (offer := fun u ws hu => hu.with_agents ws u.schedule u.trace)
    (assert := fun _ hu => powerOnReset_inv hu)
    (release := fun _ hu => releaseReset_inv hu)

/-- With no command running nothing needs random words (R136). -/
theorem rngReady_idle {s : State} (h : s.seq = .idle) : rngReady s = false := by
  simp [rngReady, h]

/-- With nothing pending the interrupt output is 0 (R160). -/
theorem irq_of_none_pending {s : State} (h : s.irqStat = 0) : irq s = false := by
  simp [irq, h]

/-! ## The reserved fields read 0 -/

/-- Where a word is 0 under a mask, it is 0 at each bit of the mask. -/
theorem getLsbD_of_and_eq_zero {v mask : Word} {j : Nat} (h : v &&& mask = 0) (hj : mask.getLsbD j = true) :
    v.getLsbD j = false :=
  and_eq_zero_iff.mp h j (BitVec.lt_of_getLsbD hj) hj

/-- Settles O59: the invariant holds these fields at 0, bit by bit, and CMD's read-back and CTRL have them 0 always. -/
theorem reservedFieldsReadZero : Obligations.ReservedFieldsReadZero := by
  rintro s ⟨-, ⟨hstatus, -⟩, ⟨hen, hstat⟩, -, ⟨hinfo, -⟩, -⟩
  have statusMask : ∀ j < 32, (4 ≤ j ∧ j < 8) ∨ 12 ≤ j → (0xFFFFF0F0 : Word).getLsbD j = true := by decide
  have infoMask : ∀ j < 32, 4 ≤ j ∧ j < 8 → (0x000000F0 : Word).getLsbD j = true := by decide
  have irqReserved : ∀ j < 32, 2 ≤ j → (0xFFFFFFFC : Word).getLsbD j = true := by decide
  have bit {v mask : Word} {j : Nat} (h : v &&& mask = 0) (hmask : j < 32 → mask.getLsbD j = true) :
      v.getLsbD j = false := by
    rcases Nat.lt_or_ge j 32 with hj | hj
    · exact getLsbD_of_and_eq_zero h (hmask hj)
    · exact BitVec.getLsbD_of_ge v j hj
  refine ⟨fun j hj => bit hstatus fun h => statusMask j h hj, fun j hj => bit hinfo fun h => infoMask j h hj,
    fun j hj => ⟨bit hen fun h => irqReserved j h hj, bit hstat fun h => irqReserved j h hj⟩, rfl, fun j hj => ?_⟩
  rw [readReg, cmdReadBack_getLsbD, decide_eq_false (by omega), Bool.false_and]

/-! ## One read or write as a step -/

theorem step_transfer {s : State} {tr : Transfer} {es : List Event} (hs : s.schedule = .transfer tr :: es) :
    step s = .next (busTransfer tr (setSchedule es s)) := by
  unfold step
  rw [hs]
  rfl

/-- What a read shows does not depend on the events to come. -/
@[simp] theorem readReg_setSchedule (t : Target) (es : List Event) (s : State) :
    readReg t (setSchedule es s) = readReg t s := by
  cases t with
  | word q k => cases q <;> rfl
  | _ => rfl

theorem responseOf_read {s : State} {off : Offset} {t : Target} (hr : s.rstN = true) (ht : targetOf off = t)
    (hok : t.slverr = false) : responseOf (.read off) s = .readData off (readReg t s) := by
  simp [responseOf, hr, ht, hok]

/-- Outside reset a read that is no error answers the register and changes none (R67). -/
theorem step_read {s : State} {off : Offset} {t : Target} {es : List Event} (hr : s.rstN = true)
    (hs : s.schedule = .transfer (.read off) :: es) (ht : targetOf off = t) (hok : t.slverr = false) :
    step s = .next (served s es (.readData off (readReg t s))) := by
  rw [step_transfer hs, busTransfer, responseOf_read (s := setSchedule es s) hr ht hok, readReg_setSchedule]
  rfl

/-- Outside reset a full-strobe write that is no error is done as `writeReg` says and answered without error (R68). -/
theorem step_write {s : State} {off : Offset} {v : Word} {t : Target} {es : List Event} (hr : s.rstN = true)
    (hs : s.schedule = .transfer (.write off v 0b1111) :: es) (ht : targetOf off = t) (hok : t.slverr = false) :
    step s = .next (respond (.writeDone off) (writeReg t v (setSchedule es s))) := by
  rw [step_transfer hs]
  simp [busTransfer, responseOf, effectOf, hr, ht, hok]

/-- The windows are disjoint, and an aligned offset in one addresses the word there (R27, R77). -/
theorem targetOf_window (q : Operand) {off : Offset} (halign : off.toNat % 4 = 0) (hlo : q.window ≤ off.toNat)
    (hhi : off.toNat < q.window + 0x200) : targetOf off = .word q ((off.toNat - q.window) / 4) := by
  cases q <;> grind [targetOf, Operand.window]

theorem whileIdle_idle {f : State → State} {s : State} (h : s.seq = .idle) : whileIdle f s = f s := by
  rw [whileIdle, h]

/-! ## The control registers -/

/-- PARAM is one number, since NWORDS does not reach its upper half (R32). -/
theorem paramWord_eq {n : Nat} (hn : Config.ValidNwords n) : paramWord n = BitVec.ofNat 32 (0x1D0A0000 + n) := by
  obtain ⟨-, hle⟩ := hn
  apply BitVec.eq_of_toNat_eq
  rw [paramWord, BitVec.toNat_append, BitVec.toNat_ofNat, BitVec.toNat_ofNat,
    ← Nat.shiftLeft_add_eq_or_of_lt (Nat.mod_lt _ (by norm_num)), Nat.mod_eq_of_lt (show n < 2 ^ 16 by omega),
    Nat.mod_eq_of_lt (show 0x1D0A0000 + n < 2 ^ 32 by omega)]
  rfl

/-- Settles O17: each offset addresses its register, and a read shows it. -/
theorem controlRegisterReads : Obligations.ControlRegisterReads := by
  intro s off es hr hs
  have read {t : Target} (ht : targetOf off = t) (hok : t.slverr = false) := step_read hr hs ht hok
  refine ⟨?_, ?_, ?_, ?_, ?_, ?_, ?_, ?_, ?_⟩
  · rintro rfl; exact read (t := .id) rfl rfl
  · rintro rfl hn; rw [← paramWord_eq hn]; exact read (t := .param) rfl rfl
  · rintro rfl; exact read (t := .cmd) rfl rfl
  · rintro rfl hrsv
    have h := read (t := .cmd) rfl rfl
    rwa [readReg, cmdReadBack_of_rsv_zero hrsv] at h
  · rintro rfl; exact read (t := .status) rfl rfl
  · rintro rfl; exact read (t := .info) rfl rfl
  · rintro rfl; exact read (t := .ctrl) rfl rfl
  · rintro rfl; exact read (t := .irqEn) rfl rfl
  · rintro rfl; exact read (t := .irqStat) rfl rfl

/-- Settles O9: CMD takes the word while IDLE. -/
theorem commandWriteAccepts : Obligations.CommandWriteAccepts := by
  intro s c es hr hidle hs
  rw [step_write hr hs (t := .cmd) rfl rfl, writeReg, whileIdle_idle (s := setSchedule es s) hidle]
  rfl

/-- The offsets of ID, PARAM, STATUS, INFO and R's window address a register a host write leaves alone (R22, R68). -/
theorem writeReg_readOnly {off : Offset} (halign : off.toNat % 4 = 0)
    (hoff : off ∈ [0x000, 0x004, 0x00C, 0x010] ∨ (0xA00 ≤ off.toNat ∧ off.toNat < 0xC00)) (v : Word) (s : State) :
    (targetOf off).slverr = false ∧ writeReg (targetOf off) v s = s := by
  rcases hoff with hlist | ⟨hlo, hhi⟩
  · simp only [List.mem_cons, List.not_mem_nil, or_false] at hlist
    rcases hlist with rfl | rfl | rfl | rfl <;> exact ⟨rfl, rfl⟩
  · rw [targetOf_window .r halign hlo hhi]
    exact ⟨rfl, rfl⟩

/-- Settles O24: such a write is the transfer's answer and nothing else. -/
theorem readOnlyRegistersIgnoreWrites : Obligations.ReadOnlyRegistersIgnoreWrites := by
  intro s off v es hr halign hoff hs
  obtain ⟨hok, hkeep⟩ := writeReg_readOnly halign hoff v (setSchedule es s)
  rw [step_write hr hs rfl hok, hkeep]
  rfl

/-- The interrupt registers have bits 1 and 0 (R42, R43). -/
theorem and_irqMask_getLsbD (v : Word) (j : Nat) : (v &&& irqMask).getLsbD j = (decide (j < 2) && v.getLsbD j) := by
  rcases Nat.lt_or_ge j 32 with hj | hj
  · have mask : ∀ j < 32, irqMask.getLsbD j = decide (j < 2) := by decide
    rw [BitVec.getLsbD_and, mask j hj, Bool.and_comm]
  · rw [BitVec.getLsbD_of_ge _ j hj, BitVec.getLsbD_of_ge v j hj, Bool.and_false]

/-- A write-1-to-clear, bit by bit (R43, R68). -/
theorem w1c_getLsbD (p v : Word) (j : Nat) :
    (w1c p v).getLsbD j = (p.getLsbD j && !(decide (j < 2) && v.getLsbD j)) := by
  rw [w1c, BitVec.getLsbD_and, BitVec.getLsbD_not, and_irqMask_getLsbD]
  rcases Nat.lt_or_ge j 32 with hj | hj
  · rw [decide_eq_true hj, Bool.true_and]
  · rw [BitVec.getLsbD_of_ge p j hj, Bool.false_and, Bool.false_and]

/-- Settles O26: the two registers are written as `irqMask` and `w1c` say. -/
theorem interruptRegisterWrites : Obligations.InterruptRegisterWrites := fun s v _ hr =>
  ⟨fun hs => ⟨v &&& irqMask, step_write hr hs (t := .irqEn) rfl rfl, and_irqMask_getLsbD v⟩,
    fun hs => ⟨w1c s.irqStat v, step_write hr hs (t := .irqStat) rfl rfl, w1c_getLsbD s.irqStat v⟩⟩

/-! ## The resets -/

/-- Settles O33: a CTRL write with bit 0 set is the soft reset, whatever the engine does. -/
theorem Settled.softReset : Obligations.SoftReset := by
  intro s v es hr hv hs
  refine ⟨_, step_write hr hs (t := .ctrl) rfl rfl, ?_⟩
  rw [writeReg, if_pos hv]
  exact ⟨rngReady_idle rfl, irq_of_none_pending rfl, rfl⟩

/-- Settles O34: each of the three events of a machine in reset, as one step. -/
theorem Settled.powerOnReset : Obligations.PowerOnReset := by
  intro s es
  refine ⟨fun hs => ?_, fun hr hs => ?_, fun hs => ?_⟩
  · refine ⟨Machine.powerOnReset (setSchedule es s), ?_, irq_of_none_pending rfl, rngReady_idle rfl, rfl⟩
    rw [step, hs]
    rfl
  · rw [step, hs]
    exact if_neg (by rw [setSchedule_rstN, hr]; decide)
  · rw [step, hs]
    rfl

/-- Settles O36: the values of R51, register by register. -/
theorem resetValues : Obligations.ResetValues := by
  refine ⟨⟨Config.referenceNwords, referenceNwords_valid, rfl⟩, fun n hn => ?_⟩
  have zero : ∀ q, (State.powerOn n).operand q = 0 := by rintro (_ | _ | _ | _ | _) <;> rfl
  have cleared : ∀ t ∈ [Target.cmd, .status, .info, .ctrl, .irqEn, .irqStat], readReg t (State.powerOn n) = 0 := by
    simp [readReg, cmdReadBack]
  exact ⟨rfl, zero, rfl, paramWord_eq hn, cleared, rfl, irq_of_none_pending rfl, rngReady_idle rfl⟩

/-! ## The words of a window -/

theorem wordOffset_toNat (q : Operand) {k : Nat} (hk : k < 128) : (wordOffset q k).toNat = q.window + 4 * k := by
  rw [wordOffset, BitVec.toNat_ofNat, Nat.mod_eq_of_lt]
  cases q <;> simp only [Operand.window] <;> omega

theorem targetOf_wordOffset (q : Operand) {k : Nat} (hk : k < 128) : targetOf (wordOffset q k) = .word q k := by
  have hoff := wordOffset_toNat q hk
  rw [targetOf_window q (by cases q <;> simp only [hoff, Operand.window] <;> omega) (by omega) (by omega), hoff,
    Nat.add_sub_cancel_left, Nat.mul_div_cancel_left k (by norm_num)]

/-- Settles O18: the read is that of the window's word, bit by bit. -/
theorem windowWordReads : Obligations.WindowWordReads := by
  intro s q k es hr hk hs
  refine ⟨readWord q k s, step_read hr hs (targetOf_wordOffset q hk) rfl, fun hlt j hj => ?_, fun hge => ?_⟩
  · rw [readWord, if_pos hlt, getWord_getLsbD, decide_eq_true hj, Bool.true_and]
  · rw [readWord, if_neg (by omega)]

/-- The low words of a number, each at its weight, sum to the number cut to those words (R28). -/
theorem sum_getWord (v n : Nat) :
    ((List.range n).map fun k => (getWord v k).toNat * 2 ^ (32 * k)).sum = v % 2 ^ (32 * n) := by
  induction n with
  | zero => simp [Nat.mod_one]
  | succ n ih =>
    have top : (getWord v n).toNat = v / 2 ^ (32 * n) % 2 ^ 32 := BitVec.toNat_ofNat _ _
    rw [List.range_succ, List.map_append, List.sum_append, ih, List.map_singleton, List.sum_singleton, top,
      show 32 * (n + 1) = 32 * n + 32 by ring, pow_add, Nat.mod_mul, mul_comm (2 ^ (32 * n))]

/-- Settles O20: a value below `2^W` is cut by none of its words. -/
theorem valueIsSumOfWords : Obligations.ValueIsSumOfWords := by
  intro s q hlt
  have words : ∀ k ∈ List.range s.nwords, (readWord q k s).toNat * 2 ^ (32 * k) =
      (getWord (s.operand q) k).toNat * 2 ^ (32 * k) := by
    intro k hk
    rw [readWord, if_pos (List.mem_range.mp hk)]
  rw [List.map_congr_left words, sum_getWord, Nat.mod_eq_of_lt hlt]

/-! ## WAIT -/

theorem and_one_eq_zero_iff (v : Word) : v &&& 0x00000001 = 0 ↔ busyBit v = false := by
  have mask : ∀ j < 32, (0x00000001 : Word).getLsbD j = true ↔ j = 0 := by decide
  rw [and_eq_zero_iff]
  constructor
  · exact fun h => h 0 (by decide) (by decide)
  · intro h j hj hmask
    rw [(mask j hj).mp hmask]
    exact h

/-- A POLL of STATUS.BUSY reads STATUS once, and is put back behind an engine's turn where BUSY is 1 (R96, log entry
9). -/
theorem step_wait {s : State} {es : List Event} (hr : s.rstN = true) (hs : s.schedule = progWait :: es) :
    step s = .next (if busyBit s.status = false then served s es (.readData 0x00C s.status)
      else served s (.engine :: progWait :: es) (.readData 0x00C s.status)) := by
  have answer : responseOf (.read offStatus) (setSchedule es s) = .readData 0x00C s.status :=
    responseOf_read (t := .status) hr rfl rfl
  have satisfied : (Response.readData 0x00C s.status).prdata.map (· &&& 0x00000001) = some 0x00000000 ↔
      busyBit s.status = false := by
    rw [← and_one_eq_zero_iff]
    exact Option.some_inj
  have poll : step s = .next (pollRead offStatus 0x00000001 0x00000000 (setSchedule es s)) := by
    rw [step, hs]
    rfl
  rw [poll, pollRead]
  simp only [busTransfer, answer, satisfied]
  split_ifs <;> rfl

/-- Settles O25: in a coherent state the bit that WAIT polls is SEQ. -/
theorem waitEndsWhenIdle : Obligations.WaitEndsWhenIdle := by
  rintro s es hr ⟨-, hbusy, -⟩ hs
  rw [step_wait hr hs]
  constructor
  · intro hidle
    rw [if_pos (by rw [← Bool.not_eq_true, hbusy, hidle]; decide)]
  · intro hseq
    rw [if_neg (by rw [hbusy.mpr hseq]; decide)]

end Sys2Proof.Machine
end

section
/-! PROOFS of the family 20_memory: the bus transfers to the register block, what the writes do while IDLE and while
BUSY, and the one sequence of events. -/

namespace Sys2Proof.Machine

/-! ## One event as a step -/

/-- With no event to come a step is the engine's turn (log entry 2). -/
theorem step_of_no_event {s : State} (hs : s.schedule = []) : step s = engineTurn s := by
  rw [step, hs]

/-- A step is the effect of the next event, with that event taken off the schedule (R79). -/
theorem step_of_event {s : State} {e : Event} {es : List Event} (hs : s.schedule = e :: es) :
    step s = applyEvent e (setSchedule es s) := by
  rw [step, hs]

theorem run_succ {M : Host.Core} {s t : M.State} (h : M.step s = .next t) (k : Nat) :
    M.run (k + 1) s = M.run k t := by
  rw [Host.Core.run, h]

theorem run_two {M : Host.Core} {s t u : M.State} (hfirst : M.step s = .next t) (hsecond : M.step t = .next u) :
    M.run 2 s = .next u := by
  rw [run_succ hfirst, run_succ hsecond, Host.Core.run]

/-- Outside reset the running command's turn is its completion step (R109). -/
theorem engineTurn_decoded {s : State} {i : Instr} (hr : s.rstN = true) (hbusy : s.seq = .busy)
    (hd : decode s.cmd = .ok i) : engineTurn s = exec i s := by
  rw [engineTurn, if_pos hr, hbusy, hd]

/-- Settles O6: such a step is the engine's turn, whose command decodes. -/
theorem stepRunsDecodedCommand : Obligations.StepRunsDecodedCommand := fun s _ es hr hbusy hd =>
  ⟨fun hs => (step_of_no_event hs).trans (engineTurn_decoded hr hbusy hd),
    fun hs => (step_of_event hs).trans (engineTurn_decoded (s := setSchedule es s) hr hbusy hd)⟩

theorem engineTurn_answers (s : State) : ∃ t, engineTurn s = .next t :=
  (engineTurn_cases s).imp fun _ h => h.1

/-- Every event answers a next state: only the engine's turn could do otherwise, and it does not. -/
theorem applyEvent_answers (e : Event) (s : State) : ∃ t, applyEvent e s = .next t := by
  cases e with
  | engine => exact engineTurn_answers s
  | together tr =>
    rw [applyEvent]
    cases hseq : s.seq with
    | idle => exact ⟨_, whileRunning_idle hseq⟩
    | busy => rw [whileRunning_busy hseq]; exact engineTurn_answers _
  | _ => exact ⟨_, rfl⟩

/-- Settles O8: the engine's turn and every other event answer a next state. -/
theorem everyStepAnswersNext : Obligations.EveryStepAnswersNext := by
  intro s
  cases hs : s.schedule with
  | nil => rw [step_of_no_event hs]; exact engineTurn_answers s
  | cons e es => rw [step_of_event hs]; exact applyEvent_answers e _

/-! ## Reads -/

@[simp] theorem readReg_respond (t : Target) (p : Response) (s : State) : readReg t (respond p s) = readReg t s := by
  cases t with
  | word q k => cases q <;> rfl
  | _ => rfl

/-- What a read answers does not depend on the events to come or on the host's record. -/
theorem responseOf_read_served (off : Offset) (s : State) (es : List Event) (p : Response) :
    responseOf (.read off) (served s es p) = responseOf (.read off) s := by
  change responseOf (.read off) (respond p (setSchedule es s)) = _
  simp only [responseOf, respond_rstN, readReg_respond, setSchedule_rstN, readReg_setSchedule]

/-- In every state a read is its answer and nothing else (R64, R67, R177). -/
theorem step_any_read {s : State} {off : Offset} {es : List Event} (hs : s.schedule = .transfer (.read off) :: es) :
    step s = .next (served s es (responseOf (.read off) s)) := by
  have answer : responseOf (.read off) (setSchedule es s) = responseOf (.read off) s := by
    simp only [responseOf, setSchedule_rstN, readReg_setSchedule]
  rw [step_transfer hs, busTransfer, answer]
  rfl

theorem served_served (s : State) (es es' : List Event) (p p' : Response) :
    served (served s es p) es' p' = { s with schedule := es', trace := s.trace ++ [p, p'] } := by
  simp only [served, List.append_assoc, List.cons_append, List.nil_append]

/-- Settles O16: the first read leaves what the second one's answer depends on. -/
theorem readsHaveNoSideEffect : Obligations.ReadsHaveNoSideEffect := by
  intro s off es hs
  have first := step_any_read hs
  have second := step_any_read (s := served s (.transfer (.read off) :: es) (responseOf (.read off) s)) rfl
  rw [responseOf_read_served, served_served] at second
  exact ⟨responseOf (.read off) s, first, run_two (M := core) first second⟩

/-! ## Error transfers -/

theorem controlTarget_reserved {o : Nat} (h : 0x020 ≤ o) : controlTarget o = .reserved := by
  unfold controlTarget
  split
  case h_9 => rfl
  all_goals omega

/-- The misaligned and the reserved offsets answer SLVERR (R64, R66, R77). -/
theorem slverr_of_offset {off : Offset}
    (h : off.toNat % 4 ≠ 0 ∨ (0x020 ≤ off.toNat ∧ off.toNat ≤ 0x1FC) ∨ 0xC00 ≤ off.toNat) :
    (targetOf off).slverr = true := by
  by_cases halign : off.toNat % 4 = 0
  · have target : targetOf off = .reserved := by
      rcases h with h | ⟨hlo, hhi⟩ | h
      · exact absurd halign h
      · simp only [targetOf]
        rw [if_neg (by omega), if_pos (by omega), controlTarget_reserved hlo]
      · simp only [targetOf]
        iterate 7 rw [if_neg (by omega)]
    rw [target]
    rfl
  · have target : targetOf off = .misaligned := if_pos halign
    rw [target]
    rfl

theorem writeReg_slverr {t : Target} (h : t.slverr = true) (v : Word) (s : State) : writeReg t v s = s := by
  cases t with
  | misaligned => rfl
  | reserved => rfl
  | _ => cases h

/-- A write at an error offset or with partial strobes changes no register (R64, R65, R66). -/
theorem effectOf_errorWrite {s : State} {off : Offset} {strb : BitVec 4}
    (h : (targetOf off).slverr = true ∨ strb ≠ 0b1111) (v : Word) : effectOf (.write off v strb) s = s := by
  rw [effectOf]
  split
  · next hlegal => exact writeReg_slverr (h.resolve_right (not_not_intro hlegal.2)) v s
  · rfl

theorem responseOf_errorWrite {s : State} {off : Offset} {strb : BitVec 4} (hr : s.rstN = true)
    (h : (targetOf off).slverr = true ∨ strb ≠ 0b1111) (v : Word) :
    responseOf (.write off v strb) s = .busError off := by
  rw [responseOf, if_pos hr, if_pos h]

/-- Settles O15: SLVERR comes with an effect that is none. -/
theorem errorTransfersChangeNothing : Obligations.ErrorTransfersChangeNothing := by
  intro s off v strb es hr
  refine ⟨fun hoff hs => ?_, fun hoff hs => ?_, rfl, rfl⟩
  · rw [step_any_read hs, responseOf, if_pos hr, if_pos (slverr_of_offset hoff)]
  · have herr : (targetOf off).slverr = true ∨ strb ≠ 0b1111 := by
      rcases hoff with h | h | h | h
      · exact .inl (slverr_of_offset (.inl h))
      · exact .inl (slverr_of_offset (.inr (.inl h)))
      · exact .inl (slverr_of_offset (.inr (.inr h)))
      · exact .inr h
    rw [step_transfer hs, busTransfer, effectOf_errorWrite herr,
      responseOf_errorWrite (s := setSchedule es s) hr herr]
    rfl

/-! ## Writes of operand words -/

/-- A word of a host-writable window is written while IDLE (R72, R73). -/
theorem writeReg_operandWord {q : Operand} (hq : q ≠ .r) (k : Nat) (v : Word) (s : State) :
    writeReg (.word q k) v s = whileIdle (writeWord q k v) s := by
  cases q with
  | r => exact absurd rfl hq
  | _ => rfl

theorem setOperand_self (s : State) (q : Operand) : s.setOperand q (s.operand q) = s := by
  cases q <;> rfl

/-- The value a window has after a write of its word `k`; from NWORDS on the old one (R27, R72). -/
def writtenValue (q : Operand) (k : Nat) (v : Word) (s : State) : Nat :=
  if k < s.nwords then setWord (s.operand q) k v else s.operand q

theorem writeWord_eq_setOperand (q : Operand) (k : Nat) (v : Word) (s : State) :
    writeWord q k v s = s.setOperand q (writtenValue q k v s) := by
  unfold writeWord writtenValue
  split
  · rfl
  · exact (setOperand_self s q).symm

/-- Settles O19: the write is `setWord`, bit by bit, below NWORDS. -/
theorem idleOperandWrite : Obligations.IdleOperandWrite := by
  intro s q k v es hr hidle hk hq hs
  refine ⟨writtenValue q k v s, ?_, fun hlt j => ?_, fun hge => if_neg (by omega)⟩
  · rw [step_write hr hs (targetOf_wordOffset q hk) rfl, writeReg_operandWord hq,
      whileIdle_idle (s := setSchedule es s) hidle, writeWord_eq_setOperand]
    cases q <;> rfl
  · rw [writtenValue, if_pos hlt, setWord_testBit]

/-- Settles O21: a lane's bit is a word's bit, which is a value's bit. -/
theorem operandBytesAreLittleEndian : Obligations.OperandBytesAreLittleEndian := by
  intro v i j hj
  have lane : (operandByte v i).getLsbD j = (getWord v (i / 4)).getLsbD (8 * (i % 4) + j) := by
    rw [operandByte, byteLane, BitVec.getLsbD_extractLsb', decide_eq_true hj, Bool.true_and]
  rw [lane, getWord_getLsbD, decide_eq_true (by omega), Bool.true_and,
    show 32 * (i / 4) + (8 * (i % 4) + j) = 8 * i + j by omega]

/-! ## Writes while BUSY -/

theorem whileIdle_busy {f : State → State} {s : State} (h : s.seq = .busy) : whileIdle f s = ignoredWrite s := by
  rw [whileIdle, h]

/-- The windows of A, B, M and X fill the offsets from 0x200 to 0x9FC (R22, R77). -/
theorem targetOf_operandWindows {off : Offset} (halign : off.toNat % 4 = 0) (hlo : 0x200 ≤ off.toNat)
    (hhi : off.toNat < 0xA00) : ∃ q k, q ≠ .r ∧ targetOf off = .word q k := by
  have window : ∃ q : Operand, q ≠ .r ∧ q.window ≤ off.toNat ∧ off.toNat < q.window + 0x200 := by
    rcases Nat.lt_or_ge off.toNat 0x400 with hb | hb
    · exact ⟨.a, by decide, hlo, hb⟩
    rcases Nat.lt_or_ge off.toNat 0x600 with hm | hm
    · exact ⟨.b, by decide, hb, hm⟩
    rcases Nat.lt_or_ge off.toNat 0x800 with hx | hx
    · exact ⟨.m, by decide, hm, hx⟩
    · exact ⟨.x, by decide, hx, hhi⟩
  obtain ⟨q, hq, hlo, hhi⟩ := window
  exact ⟨q, _, hq, targetOf_window q halign hlo hhi⟩

/-- While BUSY a write to CMD or to an operand word is ignored, and not answered with an error (R73). -/
theorem writeReg_ignored {s : State} {off : Offset} (hbusy : s.seq = .busy) (halign : off.toNat % 4 = 0)
    (hoff : off = 0x008 ∨ (0x200 ≤ off.toNat ∧ off.toNat < 0xA00)) (v : Word) :
    (targetOf off).slverr = false ∧ writeReg (targetOf off) v s = ignoredWrite s := by
  rcases hoff with rfl | ⟨hlo, hhi⟩
  · exact ⟨rfl, whileIdle_busy hbusy⟩
  · obtain ⟨q, k, hq, ht⟩ := targetOf_operandWindows halign hlo hhi
    rw [ht, writeReg_operandWord hq, whileIdle_busy hbusy]
    exact ⟨rfl, rfl⟩

/-- Settles O23: each offset addresses its register, and `writeReg` says what the write does there. -/
theorem writesWhileBusy : Obligations.WritesWhileBusy := by
  intro s off v es hr hbusy halign hs
  have write {t : Target} (ht : targetOf off = t) (hok : t.slverr = false) := step_write hr hs ht hok
  refine ⟨fun hoff => ?_, ?_, ?_, ?_, ?_, fun hoff => readOnlyRegistersIgnoreWrites s off v es hr halign hoff hs⟩
  · obtain ⟨hok, hignored⟩ := writeReg_ignored (s := setSchedule es s) hbusy halign hoff v
    rw [write rfl hok, hignored]
    rfl
  · rintro rfl hv
    rw [write (t := .ctrl) rfl rfl, writeReg, if_pos hv]
    rfl
  · rintro rfl hv
    rw [write (t := .ctrl) rfl rfl, writeReg, if_neg (by rw [hv]; decide)]
    rfl
  · rintro rfl; exact write (t := .irqEn) rfl rfl
  · rintro rfl; exact write (t := .irqStat) rfl rfl

/-! ## The results between commands -/

/-- The registers that hold a finished command's results (R80). -/
def resultRegisters (s : State) : Nat × Word × Word × Word := (s.r, s.cmd, s.status, s.info)

theorem targetOf_eq_ctrl {off : Offset} (h : targetOf off = .ctrl) : off = 0x014 := by
  simp only [targetOf] at h
  split_ifs at h
  unfold controlTarget at h
  split at h <;> cases h
  exact BitVec.eq_of_toNat_eq ‹_›

/-- A write that finds and leaves the engine IDLE keeps the results, or is a soft reset (R68, R178). -/
theorem writeReg_results {t : Target} {v : Word} {s : State} (hs : s.seq = .idle)
    (ht : (writeReg t v s).seq = .idle) :
    resultRegisters (writeReg t v s) = resultRegisters s ∨
      (t = .ctrl ∧ v.getLsbD 0 = true ∧ writeReg t v s = softReset s) := by
  cases t with
  | cmd => rw [writeReg, whileIdle_idle hs] at ht; cases ht
  | ctrl =>
    rw [writeReg]
    split
    · next hv => exact .inr ⟨rfl, hv, rfl⟩
    · exact .inl rfl
  | word q k =>
    left
    by_cases hq : q = .r
    · rw [hq]; rfl
    · rw [writeReg_operandWord hq, whileIdle_idle hs]
      simp only [resultRegisters, writeWord_r, writeWord_cmd, writeWord_status, writeWord_info]
  | _ => exact .inl rfl

/-- Outside reset, a full-strobe write of CTRL with SRST set: the soft reset's transfer (R41, R178). -/
def SoftResetWrite (s : State) (tr : Transfer) : Prop :=
  ∃ v : Word, s.rstN = true ∧ v.getLsbD 0 = true ∧ tr = .write 0x014 v 0b1111

theorem busTransfer_results {tr : Transfer} {s : State} (hs : s.seq = .idle) (ht : (busTransfer tr s).seq = .idle) :
    resultRegisters (busTransfer tr s) = resultRegisters s ∨
      (resultRegisters (busTransfer tr s) = (0, 0, 0, 0) ∧ SoftResetWrite s tr) := by
  change (effectOf tr s).seq = .idle at ht
  change resultRegisters (effectOf tr s) = _ ∨ resultRegisters (effectOf tr s) = _ ∧ _
  cases tr with
  | read off => exact .inl rfl
  | write off v strb =>
    rw [effectOf] at ht ⊢
    split at ht
    · next hlegal =>
      obtain ⟨hr, rfl⟩ := hlegal
      rw [if_pos ⟨hr, rfl⟩]
      refine (writeReg_results hs ht).imp_right fun ⟨hctrl, hv, hreset⟩ => ?_
      exact ⟨congrArg resultRegisters hreset, v, hr, hv, by rw [targetOf_eq_ctrl hctrl]⟩
    · next hlegal => exact .inl (by rw [if_neg hlegal])

/-- The read of a POLL keeps the results. -/
theorem pollRead_results (off : Offset) (mask val : Word) (s : State) :
    resultRegisters (pollRead off mask val s) = resultRegisters s := by
  simp only [pollRead]
  split <;> rfl

/-- An event that finds and leaves the engine IDLE keeps the results, or is one of the two resets, which clears them
(R71, R80, R176, R178). -/
theorem applyEvent_results {e : Event} {s t : State} (h : applyEvent e s = .next t) (hs : s.seq = .idle)
    (ht : t.seq = .idle) :
    resultRegisters t = resultRegisters s ∨
      (resultRegisters t = (0, 0, 0, 0) ∧
        (e = .resetAssert ∨ ∃ tr, SoftResetWrite s tr ∧ (e = .transfer tr ∨ e = .together tr))) := by
  cases e with
  | transfer tr =>
    cases h
    exact (busTransfer_results hs ht).imp_right fun ⟨hzero, hreset⟩ => ⟨hzero, .inr ⟨tr, hreset, .inl rfl⟩⟩
  | together tr =>
    rw [applyEvent, whileRunning_idle hs] at h
    cases h
    exact (busTransfer_results hs ht).imp_right fun ⟨hzero, hreset⟩ => ⟨hzero, .inr ⟨tr, hreset, .inr rfl⟩⟩
  | engine =>
    rw [applyEvent, engineTurn_idle hs] at h
    cases h
    exact .inl rfl
  | poll off mask val => cases h; exact .inl (pollRead_results off mask val s)
  | offer ws => cases h; exact .inl rfl
  | resetAssert => cases h; exact .inr ⟨rfl, .inl rfl⟩
  | resetRelease => cases h; exact .inl rfl

/-- Settles O13: the results outlive each kind of event but the resets. -/
theorem resultsHoldBetweenCommands : Obligations.ResultsHoldBetweenCommands := by
  intro s t h hs ht
  cases hsched : s.schedule with
  | nil =>
    rw [step_of_no_event hsched, engineTurn_idle hs] at h
    cases h
    exact .inl ⟨rfl, rfl, rfl, rfl⟩
  | cons e es =>
    rw [step_of_event hsched] at h
    have results := applyEvent_results h (setSchedule_seq es s ▸ hs) ht
    simp only [resultRegisters, Prod.mk.injEq] at results
    refine results.imp_right fun ⟨hzero, hevent⟩ => ⟨hzero, ?_⟩
    rcases hevent with rfl | ⟨_, ⟨v, hr, hv, rfl⟩, rfl | rfl⟩
    · exact .inl ⟨es, rfl⟩
    · exact .inr ⟨v, es, hr, hv, .inl rfl⟩
    · exact .inr ⟨v, es, hr, hv, .inr rfl⟩

end Sys2Proof.Machine
end

section
/-! PROOFS of the family 30_encoding: the command words and the commands they decode to, the loads of whole operands,
and a transfer at the clock edge of the engine's turn. -/

namespace Sys2Proof.Machine

/-! ## The three fields of a command word -/

/-- A word is its three fields (R87). -/
theorem word_eq_fields (c : Word) : c = (rsvField c ++ rndField c ++ opField c : BitVec 32) := by
  apply BitVec.eq_of_getLsbD_eq
  intro j hj
  simp only [BitVec.getLsbD_append, opField, rndField, rsvField, BitVec.getLsbD_extractLsb']
  grind

/-- Two words are equal where their fields are. -/
theorem word_eq_iff_fields {c d : Word} :
    c = d ↔ rsvField c = rsvField d ∧ rndField c = rndField d ∧ opField c = opField d := by
  constructor
  · rintro rfl
    exact ⟨rfl, rfl, rfl⟩
  · rintro ⟨hrsv, hrnd, hop⟩
    rw [word_eq_fields c, word_eq_fields d, hrsv, hrnd, hop]

/-- The fields of MRTEST's word are its rounds and its opcode (R88, R90). -/
theorem fields_encode_mrtest (n : Nat) : rsvField (encode (.mrtest n)) = 0 ∧
    rndField (encode (.mrtest n)) = BitVec.ofNat 8 n ∧ opField (encode (.mrtest n)) = 0x06 := by
  refine ⟨?_, ?_, ?_⟩ <;> apply BitVec.eq_of_getLsbD_eq <;> intro j hj <;>
    simp only [rsvField, rndField, opField, encode, BitVec.getLsbD_extractLsb', BitVec.getLsbD_append]
  · grind
  · grind
  · grind

/-- A word with RND 0 and the opcode of a command without rounds is that command's word (R90). -/
theorem encode_noRounds {c : Word} {i : Instr} (hi : i ∈ [Instr.modmul, .modexp, .modinv, .trialdiv, .mrround])
    (hrsv : rsvField c = 0) (hrnd : rndField c = 0) (hop : opField c = opField (encode i)) :
    i.WellFormed ∧ encode i = c := by
  have zero : ∀ i ∈ [Instr.modmul, .modexp, .modinv, .trialdiv, .mrround],
      i.WellFormed ∧ rsvField (encode i) = 0 ∧ rndField (encode i) = 0 := by decide
  obtain ⟨hwf, hrsv', hrnd'⟩ := zero i hi
  exact ⟨hwf, word_eq_iff_fields.mpr ⟨hrsv'.trans hrsv.symm, hrnd'.trans hrnd.symm, hop.symm⟩⟩

/-- A word with the opcode of MRTEST is the word of an MRTEST with the rounds of its RND field (R88, R90). -/
theorem encode_mrtest_rndField {c : Word} (hrsv : rsvField c = 0) (hop : opField c = 0x06) :
    (Instr.mrtest (rndField c).toNat).WellFormed ∧ encode (.mrtest (rndField c).toNat) = c := by
  obtain ⟨hrsv', hrnd', hop'⟩ := fields_encode_mrtest (rndField c).toNat
  rw [BitVec.ofNat_toNat, BitVec.setWidth_eq] at hrnd'
  exact ⟨decide_eq_true (Nat.le_of_lt_succ (rndField c).isLt),
    word_eq_iff_fields.mpr ⟨hrsv'.trans hrsv.symm, hrnd', hop'.trans hop.symm⟩⟩

/-! ## Decoding and encoding are inverse -/

/-- Settles O2: the word of an MRTEST has its rounds in RND, and the other words are constants. -/
theorem decodeOfEncode : Obligations.DecodeOfEncode := by
  intro i h
  cases i with
  | mrtest n =>
    obtain ⟨hrsv, hrnd, hop⟩ := fields_encode_mrtest n
    have hn : n ≤ 255 := of_decide_eq_true h
    simp [decode, hrsv, hrnd, hop, Nat.mod_eq_of_lt (Nat.lt_succ_of_le hn)]
  | _ => rfl

theorem decodeNoRounds_eq_ok {c : Word} {i j : Instr} (h : decodeNoRounds c j = .ok i) : rndField c = 0 ∧ j = i := by
  rw [decodeNoRounds] at h
  split at h <;> cases h
  exact ⟨‹_›, rfl⟩

/-- Settles O3: each test of `decode` settles a field, and together they settle the whole word. -/
theorem encodeOfDecode : Obligations.EncodeOfDecode := by
  intro c i h
  have noRounds {j : Instr} (hj : j ∈ [Instr.modmul, .modexp, .modinv, .trialdiv, .mrround])
      (hrsv : ¬rsvField c ≠ 0) (hop : opField c = opField (encode j)) (h : decodeNoRounds c j = .ok i) :
      i.WellFormed ∧ encode i = c := by
    obtain ⟨hrnd, rfl⟩ := decodeNoRounds_eq_ok h
    exact encode_noRounds hj (not_not.mp hrsv) hrnd hop
  rw [decode] at h
  split_ifs at h with hrsv h1 h2 h3 h4 h5 h6
  · exact noRounds (j := .modmul) (by decide) hrsv h1 h
  · exact noRounds (j := .modexp) (by decide) hrsv h2 h
  · exact noRounds (j := .modinv) (by decide) hrsv h3 h
  · exact noRounds (j := .trialdiv) (by decide) hrsv h4 h
  · exact noRounds (j := .mrround) (by decide) hrsv h5 h
  · cases h
    exact encode_mrtest_rndField (not_not.mp hrsv) h6

/-- Settles O1: `decode` evaluated at each word. -/
theorem commandWordsDecode : Obligations.CommandWordsDecode := by
  unfold Obligations.CommandWordsDecode
  decide

/-! ## The legal words -/

/-- A command that has a word has a legal one (R91). -/
theorem legal_encode {i : Instr} (h : i.WellFormed) : Legal (encode i) := by
  cases i with
  | modmul => exact Laws.EncodeLegal.modmul h
  | modexp => exact Laws.EncodeLegal.modexp h
  | modinv => exact Laws.EncodeLegal.modinv h
  | trialdiv => exact Laws.EncodeLegal.trialdiv h
  | mrround => exact Laws.EncodeLegal.mrround h
  | mrtest n => exact Laws.EncodeLegal.mrtest n h

/-- A legal word has an opcode of R90. -/
theorem opField_of_legal {c : Word} (h : Legal c) :
    opField c ∈ ([0x01, 0x02, 0x03, 0x04, 0x05, 0x06] : List (BitVec 8)) := by
  have range : ∀ op : BitVec 8, 0x01 ≤ op.toNat ∧ op.toNat ≤ 0x06 →
    op ∈ ([0x01, 0x02, 0x03, 0x04, 0x05, 0x06] : List (BitVec 8)) := by decide
  exact range _ h.2.1

/-- A legal word is the word of a command (R91). -/
theorem exists_encode_of_legal {c : Word} (h : Legal c) : ∃ i : Instr, i.WellFormed ∧ encode i = c := by
  have ⟨hrsv, _, hrnd⟩ := h
  by_cases h6 : opField c = 0x06
  · exact ⟨_, encode_mrtest_rndField hrsv h6⟩
  · have opcodes : ∀ op ∈ ([0x01, 0x02, 0x03, 0x04, 0x05, 0x06] : List (BitVec 8)), op ≠ 0x06 →
        ∃ i ∈ [Instr.modmul, .modexp, .modinv, .trialdiv, .mrround], op = opField (encode i) := by decide
    obtain ⟨i, hi, hop⟩ := opcodes _ (opField_of_legal h) h6
    exact ⟨i, encode_noRounds hi hrsv (hrnd.resolve_left h6) hop⟩

/-- Settles O4: the words of the commands are the legal words. -/
theorem decodeAcceptsExactlyLegalWords : Obligations.DecodeAcceptsExactlyLegalWords := by
  intro c
  change (∃ i, decode c = .ok i) ↔ Legal c
  constructor
  · rintro ⟨i, h⟩
    obtain ⟨hwf, rfl⟩ := encodeOfDecode c i h
    exact legal_encode hwf
  · intro h
    obtain ⟨i, hwf, rfl⟩ := exists_encode_of_legal h
    exact ⟨i, decodeOfEncode i hwf⟩

/-- A row of the opcode map takes exactly the legal words with its opcode (R90, R91). -/
theorem hits_iff_legal {row : OpcodeRow} (h : row ∈ opcodeMap) (c : Word) :
    row.hits c = true ↔ Legal c ∧ opField c = opField row.pattern := by
  have masked : row.hits c = true ↔ rsvField c &&& rsvField row.mask = rsvField row.pattern ∧
      rndField c &&& rndField row.mask = rndField row.pattern ∧
      opField c &&& opField row.mask = opField row.pattern := by
    rw [OpcodeRow.hits, beq_iff_eq, word_eq_iff_fields]
    simp only [rsvField, rndField, opField, BitVec.extractLsb'_and]
  have masks : ∀ row ∈ opcodeMap, rsvField row.mask = BitVec.allOnes 16 ∧ opField row.mask = BitVec.allOnes 8 ∧
      rndField row.mask = if opField row.pattern = 0x06 then 0 else BitVec.allOnes 8 := by decide
  have patterns : ∀ row ∈ opcodeMap, rsvField row.pattern = 0 ∧ rndField row.pattern = 0 ∧
      0x01 ≤ (opField row.pattern).toNat ∧ (opField row.pattern).toNat ≤ 0x06 := by decide
  obtain ⟨hrsvMask, hopMask, hrndMask⟩ := masks row h
  obtain ⟨hrsv, hrnd, hop⟩ := patterns row h
  rw [masked, hrsvMask, hopMask, hrsv, hrnd, hrndMask, BitVec.and_allOnes, BitVec.and_allOnes]
  constructor
  · rintro ⟨hrsv, hrnd, hop'⟩
    rw [← hop'] at hop hrnd
    refine ⟨⟨hrsv, hop, ?_⟩, hop'⟩
    split_ifs at hrnd with h6
    · exact .inl h6
    · exact .inr (by rwa [BitVec.and_allOnes] at hrnd)
  · rintro ⟨⟨hrsv, -, hrnd⟩, hop'⟩
    rw [← hop']
    refine ⟨hrsv, ?_, rfl⟩
    split_ifs with h6
    · exact BitVec.and_zero
    · rw [BitVec.and_allOnes, hrnd.resolve_left h6]

/-- Settles O5: a legal word is in the one row with its opcode. -/
theorem legalWordsMatchOneRow : Obligations.LegalWordsMatchOneRow := by
  refine fun c => ⟨Iff.rfl, ?_⟩
  split_ifs with h
  · have one : ∀ op ∈ ([0x01, 0x02, 0x03, 0x04, 0x05, 0x06] : List (BitVec 8)),
        (opcodeMap.filter fun row => op = opField row.pattern).length = 1 := by decide
    rw [← one _ (opField_of_legal h)]
    congr 1
    refine List.filter_congr fun row hrow => ?_
    rw [Bool.eq_iff_iff, hits_iff_legal hrow, decide_eq_true_iff, and_iff_right h]
  · rw [List.length_eq_zero_iff, List.filter_eq_nil_iff]
    exact fun row hrow hhits => h ((hits_iff_legal hrow c).mp hhits).1


/-! ## LD -/

theorem setOperand_operand_self {q : Operand} (hq : q ≠ .r) (s : State) (v : Nat) :
    (s.setOperand q v).operand q = v := by
  rw [setOperand_operand, if_pos ⟨rfl, hq⟩]

/-- The writes of words `k` to `k + m - 1` of LD (R97). -/
def wordWrites (q : Operand) (v k m : Nat) : List Event :=
  (List.range' k m).map fun i => wr (wordOffset q i) (getWord v i)

theorem progLd_eq_wordWrites (n : Nat) (q : Operand) (v : Nat) : progLd n q v = wordWrites q v 0 n := by
  rw [progLd, List.range_eq_range', wordWrites]

/-- Such writes replace those words of the register by the words of `v`, and change no other register (R72). -/
theorem run_wordWrites {q : Operand} (hq : q ≠ .r) (v : Nat) (es : List Event) {m : Nat} :
    ∀ {k : Nat} {s : State}, s.rstN = true → s.seq = .idle → k + m ≤ s.nwords → s.nwords ≤ 128 →
      s.schedule = wordWrites q v k m ++ es →
      ∃ u tr, core.run m s = .next (({ s with schedule := es, trace := tr } : State).setOperand q u) ∧
        ∀ j, u.testBit j = if 32 * k ≤ j ∧ j < 32 * (k + m) then v.testBit j else (s.operand q).testBit j := by
  induction m with
  | zero =>
    intro k s _ _ _ _ hs
    obtain rfl : s.schedule = es := hs
    exact ⟨s.operand q, s.trace, congrArg _ (setOperand_self s q).symm, fun j => (if_neg (by omega)).symm⟩
  | succ m ih =>
    intro k s hr hidle hk hn hs
    have hfirst : s.schedule = wr (wordOffset q k) (getWord v k) :: (wordWrites q v (k + 1) m ++ es) := hs
    obtain ⟨u, hstep, hword, -⟩ := idleOperandWrite s q k (getWord v k) _ hr hidle (by omega) hq hfirst
    obtain ⟨w, tr, hrun, hbits⟩ := ih (k := k + 1)
      (s := (served s (wordWrites q v (k + 1) m ++ es) (.writeDone (wordOffset q k))).setOperand q u)
      (by rwa [setOperand_rstN]) (by rwa [setOperand_seq]) (by rw [setOperand_nwords, Nat.add_right_comm]; exact hk)
      (by rwa [setOperand_nwords]) (by rw [setOperand_schedule])
    refine ⟨w, tr, ?_, fun j => ?_⟩
    · rw [run_succ (M := core) hstep]
      refine hrun.trans ?_
      cases q <;> rfl
    · rw [hbits, setOperand_operand_self hq, hword (by omega), getWord_getLsbD]
      by_cases hj : 32 * k ≤ j ∧ j < 32 * k + 32
      · rw [if_neg (by omega), if_pos hj, if_pos (by omega), decide_eq_true (by omega), Bool.true_and,
          Nat.add_sub_cancel' hj.1]
      · rw [if_neg hj]
        exact if_congr (by omega) rfl rfl

/-- Settles O22: the writes of LD replace every word. -/
theorem loadSetsWholeOperand : Obligations.LoadSetsWholeOperand := by
  rintro s q v es hr hidle hq ⟨-, hn⟩ hold hv hs
  rw [progLd_eq_wordWrites] at hs
  obtain ⟨u, tr, hrun, hbits⟩ := run_wordWrites hq v es hr hidle (by omega) hn hs
  have hu : u = v := by
    apply Nat.eq_of_testBit_eq
    intro j
    rw [hbits]
    split_ifs with hj
    · rfl
    · have hpow : 2 ^ (32 * s.nwords) ≤ 2 ^ j := Nat.pow_le_pow_right (by norm_num) (by omega)
      rw [Nat.testBit_lt_two_pow (hold.trans_le hpow), Nat.testBit_lt_two_pow (hv.trans_le hpow)]
  refine ⟨_, hrun, (setOperand_operand_self hq _ u).trans hu, setOperand_schedule _ q u,
    (setOperand_seq _ q u).trans hidle, setOperand_r _ q u, setOperand_cmd _ q u, setOperand_status _ q u,
    setOperand_info _ q u, setOperand_irqEn _ q u, setOperand_irqStat _ q u, fun p hp => ?_⟩
  rw [setOperand_operand, if_neg fun h => hp h.1]
  cases p <;> rfl

/-! ## A transfer at the edge of the engine's turn -/

/-- While IDLE such a transfer is the transfer alone (R181). -/
theorem step_together_idle {s : State} {tr : Transfer} {es : List Event} (hidle : s.seq = .idle)
    (hs : s.schedule = .together tr :: es) : step s = step { s with schedule := .transfer tr :: es } := by
  rw [step_of_event hs, applyEvent, whileRunning_idle (before := setSchedule es s) hidle]
  rfl

/-- While a command runs its turn follows the transfer (R157, log entry 12). -/
theorem step_together_busy {s t : State} {tr : Transfer} {es : List Event} (hbusy : s.seq = .busy)
    (hs : s.schedule = .together tr :: es) (ht : step { s with schedule := .transfer tr :: es } = .next t) :
    step s = engineTurn t := by
  rw [step_transfer (s := { s with schedule := .transfer tr :: es }) rfl] at ht
  rw [step_of_event hs, applyEvent, whileRunning_busy (before := setSchedule es s) hbusy]
  cases ht
  rfl

/-- Outside reset the running command's turn is that of the statements (R109, R154). -/
theorem engineTurn_eq_commandTurn {s : State} (hr : s.rstN = true) (hbusy : s.seq = .busy) :
    engineTurn s = commandTurn s := by
  rw [engineTurn, if_pos hr, hbusy]
  rfl

/-- A transfer that leaves the command running is followed by the command's turn (R109, R157). -/
theorem step_together_turn {s t : State} {tr : Transfer} {es : List Event} (hbusy : s.seq = .busy)
    (hs : s.schedule = .together tr :: es) (ht : step { s with schedule := .transfer tr :: es } = .next t)
    (hr : t.rstN = true) (hbusy' : t.seq = .busy) : step s = commandTurn t :=
  (step_together_busy hbusy hs ht).trans (engineTurn_eq_commandTurn hr hbusy')

/-- A completion clears no pending interrupt (R107, R108). -/
theorem Completes.keeps_pending {s t : State} (h : Completes s t) {j : Nat} (hj : s.irqStat.getLsbD j = true) :
    t.irqStat.getLsbD j = true := by
  cases h with
  | success => rw [complete_irqStat, setRng_irqStat, BitVec.getLsbD_or, hj, Bool.true_or]
  | error => rw [raiseError_irqStat, BitVec.getLsbD_or, hj, Bool.true_or]
  | waits => exact hj

theorem or_doneIp_pending (p : Word) : (p ||| doneIp).getLsbD 0 = true := by
  rw [BitVec.getLsbD_or, show doneIp.getLsbD 0 = true by decide, Bool.or_true]

theorem or_ovrIp_pending (p : Word) : (p ||| ovrIp).getLsbD 1 = true := by
  rw [BitVec.getLsbD_or, show ovrIp.getLsbD 1 = true by decide, Bool.or_true]

/-- A command that ends has DONE_IP set (R107, R108). -/
theorem Completes.done_pending {s t : State} (h : Completes s t) (hbusy : s.seq = .busy) (ht : t.seq = .idle) :
    t.irqStat.getLsbD 0 = true := by
  cases h with
  | success => exact or_doneIp_pending _
  | error => exact or_doneIp_pending _
  | waits =>
    rw [setWork_seq, setRng_seq, hbusy] at ht
    cases ht

/-- The running command's turn completes it or leaves it waiting, legal word or not (R109, R154). -/
theorem commandTurn_completes (s : State) : ∃ t, commandTurn s = .next t ∧ Completes s t := by
  unfold commandTurn
  split
  · exact exec_completes _ s
  · exact ⟨_, rfl, .error .illegalCommand⟩

/-- Settles O32: the step is that of the transfer alone, followed by the turn of a command that still runs. -/
theorem sameEdgeEvents : Obligations.SameEdgeEvents := by
  refine ⟨fun s tr es => step_together_idle, fun s c es hr hidle hs => ?_, fun s off es hr hbusy hs => ?_,
    fun s off v strb es hr hbusy hs => ⟨fun hoff => ?_, ?_⟩⟩
  · rw [step_together_idle hidle hs]
    exact commandWriteAccepts { s with schedule := .transfer (.write 0x008 c 0b1111) :: es } c es hr hidle rfl
  · have read := step_any_read (s := { s with schedule := .transfer (.read off) :: es }) rfl
    exact ⟨_, read, step_together_turn hbusy hs read hr hbusy⟩
  · obtain ⟨-, write, -⟩ :=
      errorTransfersChangeNothing { s with schedule := .transfer (.write off v strb) :: es } off v strb es hr
    exact step_together_turn hbusy hs (write hoff rfl) hr hbusy
  · rintro halign rfl
    obtain ⟨ignored, resets, noReset, enables, clears, readOnly⟩ :=
      writesWhileBusy { s with schedule := .transfer (.write off v 0b1111) :: es } off v es hr hbusy halign rfl
    refine ⟨fun hoff hv => ?_, fun hoff hv => step_together_turn hbusy hs (noReset hoff hv) hr hbusy, fun hoff => ?_,
      fun hoff => step_together_turn hbusy hs (enables hoff) hr hbusy, fun hoff => ?_,
      fun hoff => step_together_turn hbusy hs (readOnly hoff) hr hbusy⟩
    · exact (step_together_busy hbusy hs (resets hoff hv)).trans (engineTurn_idle rfl)
    · have turn := step_together_turn hbusy hs (ignored hoff) hr hbusy
      obtain ⟨t, ht, hc⟩ :=
        commandTurn_completes { served s es (.writeDone off) with irqStat := s.irqStat ||| ovrIp }
      exact ⟨turn, t, turn.trans ht, hc.keeps_pending (or_ovrIp_pending _)⟩
    · have turn := step_together_turn hbusy hs (clears hoff) hr hbusy
      obtain ⟨t, ht, hc⟩ :=
        commandTurn_completes { served s es (.writeDone off) with irqStat := w1c s.irqStat v }
      exact ⟨turn, t, turn.trans ht, hc.done_pending hbusy⟩

end Sys2Proof.Machine
end

section
/-! PROOFS of the family 40_modarith: what the turn of an accepted command shows, error completions, and the results of
MODMUL, MODEXP and MODINV. -/

namespace Sys2Proof.Machine

/-! ## The command a placed word runs -/

/-- Settles O7: the engine's turn comes next, and the accepted word decodes. -/
theorem placedWordRunsNext : Obligations.PlacedWordRunsNext := by
  intro s w i hw hd
  have hturn : (s.withFetchWord 32 w).schedule = .engine :: s.schedule := rfl
  rw [step_of_event hturn, State.withFetchWord, Nat.mod_eq_of_lt hw]
  exact engineTurn_decoded rfl rfl hd

/-! ## The two shapes of a completion -/

theorem raiseError_eq_failed (e : ErrCode) (s : State) : raiseError e s = failed s (statusError e) := rfl

theorem statusError_invalidArgument : statusError .invalidArgument = 0x00000106 := rfl

theorem statusError_noInverse : statusError .noInverse = 0x00000206 := rfl

/-- A modular command's success: the residue in R, X kept, INFO 0 and no RESULT (R107, R110, R112, R116). -/
theorem complete_residue_eq_committed (r : Nat) (s : State) :
    complete r none 0 false s = committed s r s.x 0x00000002 0 := rfl

/-- STATUS after an error is `code * 256 + 6`, the code one of R151's (R108). -/
theorem statusError_eq_ofNat (e : ErrCode) :
    ∃ c ∈ [(1 : Nat), 2, 3], statusError e = BitVec.ofNat 32 (c * 256 + 6) := by
  cases e <;> decide

/-- Settles O29: while BUSY STATUS shows no error, so the turn was neither none at all nor that of a waiting MRTEST, and
a success shows none either. -/
theorem errorsArePrecise : Obligations.ErrorsArePrecise := by
  rintro s t hbusy ⟨-, hseq, hbusyClear, -⟩ h herr
  have noError : errBit s.status ≠ true := by
    obtain ⟨-, hclear, -⟩ := hbusyClear (hseq.mpr hbusy)
    rw [hclear]
    decide
  obtain ⟨u, hu, hcases⟩ := engineTurn_cases s
  rw [h] at hu
  cases hu
  rcases hcases with rfl | hc
  · exact absurd herr noError
  cases hc with
  | success r x info result ws =>
    rw [complete_status, errBit_statusDone] at herr
    cases herr
  | error e => exact ⟨statusError_eq_ofNat e, rfl⟩
  | waits => exact absurd herr noError

/-! ## The first STATUS read after acceptance -/

/-- STATUS as the host sees it once a command has ended (R107, R108). -/
def ShowsDone (status : Word) : Prop := busyBit status = false ∧ doneBit status = true

theorem statusDone_showsDone (result : Bool) : ShowsDone (statusDone result) :=
  ⟨by cases result <;> decide, doneBit_statusDone result⟩

theorem statusError_showsDone (e : ErrCode) : ShowsDone (statusError e) := by
  cases e <;> exact ⟨by decide, by decide⟩

/-- A command's completion step ends it, or leaves it as it was, and then it is an MRTEST (R109, R137). -/
theorem Answers.done_or_waits {i : Instr} {s t : State} (h : Answers s i t) :
    (ShowsDone t.status ∧ t.seq = .idle) ∨ (t.status = s.status ∧ t.seq = s.seq ∧ ∃ n, i = .mrtest n) := by
  cases h with
  | error e => exact .inl ⟨statusError_showsDone _, rfl⟩
  | waits n => exact .inr ⟨rfl, rfl, n, rfl⟩
  | _ => exact .inl ⟨statusDone_showsDone _, rfl⟩

/-- The running command's turn ends it, legal word or not, unless it is an MRTEST short of words (R109, R137, R154). -/
theorem commandTurn_done_or_waits {s t : State} (h : commandTurn s = .next t) :
    (ShowsDone t.status ∧ t.seq = .idle) ∨
      (t.status = s.status ∧ t.seq = s.seq ∧ ∃ n, decode s.cmd = .ok (.mrtest n)) := by
  unfold commandTurn at h
  split at h
  · next hd =>
    refine (exec_answers h).done_or_waits.imp_right fun ⟨hstatus, hseq, n, hn⟩ => ⟨hstatus, hseq, n, ?_⟩
    rw [hd, hn]
  · cases h
    exact .inl ⟨statusError_showsDone .illegalCommand, rfl⟩

/-- A word written to CMD while IDLE is accepted, and the write answered (R106). -/
theorem step_commandWrite {s : State} {c : Word} {es : List Event} (hr : s.rstN = true) (hidle : s.seq = .idle)
    (hs : s.schedule = .transfer (.write 0x008 c 0b1111) :: es) :
    step s = .next (respond (.writeDone 0x008) (accept c (setSchedule es s))) :=
  commandWriteAccepts s c es hr hidle hs

/-- Outside reset a read of STATUS answers it and changes no register (R34, R67). -/
theorem step_readStatus {s : State} {es : List Event} (hr : s.rstN = true)
    (hs : s.schedule = .transfer (.read 0x00C) :: es) :
    step s = .next (served s es (.readData 0x00C s.status)) :=
  step_read (t := .status) hr hs rfl rfl

/-- The running command's turn and then a read of STATUS, which shows what the turn left there. -/
theorem run_turn_readStatus {s : State} {es : List Event} (hr : s.rstN = true) (hbusy : s.seq = .busy)
    (hs : s.schedule = .engine :: .transfer (.read 0x00C) :: es) :
    ∃ t, commandTurn (setSchedule (.transfer (.read 0x00C) :: es) s) = .next t ∧
      core.run 2 s = .next (served t es (.readData 0x00C t.status)) ∧ t.trace = s.trace := by
  obtain ⟨t, turn, hc⟩ := commandTurn_completes (setSchedule (.transfer (.read 0x00C) :: es) s)
  obtain ⟨-, -, -, -, -, -, hrst, hsched, htrace, -⟩ := hc.frame
  have first : step s = .next t :=
    (step_of_event hs).trans ((engineTurn_eq_commandTurn (s := setSchedule (_ :: es) s) hr hbusy).trans turn)
  exact ⟨t, turn, run_two (M := core) first (step_readStatus (hrst.trans hr) hsched), htrace⟩

/-- Settles O11: acceptance sets STATUS to BUSY, the read before the turn shows that, and the read after it shows what
the turn left. -/
theorem firstStatusReadAfterAcceptance : Obligations.FirstStatusReadAfterAcceptance := by
  intro s c es hr hidle
  refine ⟨fun hs => ?_, fun hs => ?_⟩
  · have read := step_readStatus (s := respond (.writeDone 0x008) (accept c (setSchedule (_ :: es) s))) hr rfl
    exact ⟨_, run_two (M := core) (step_commandWrite hr hidle hs) read, List.append_assoc _ _ _⟩
  · obtain ⟨t, turn, hrun, htrace⟩ :=
      run_turn_readStatus (s := respond (.writeDone 0x008) (accept c (setSchedule (_ :: _ :: es) s))) hr rfl rfl
    refine ⟨_, t.status, (run_succ (M := core) (step_commandWrite hr hidle hs) 2).trans hrun, ?_, ?_⟩
    · exact (congrArg (· ++ _) htrace).trans (List.append_assoc _ _ _)
    · rcases commandTurn_done_or_waits turn with ⟨⟨hbusy, hdone⟩, hseq⟩ | hwaits
      · exact .inl ⟨hbusy, hdone, hseq⟩
      · exact .inr hwaits

/-! ## MODMUL -/

/-- Settles O37: the two branches of MODMUL. -/
theorem modmulResult : Obligations.ModmulResult := by
  refine ⟨by decide, fun s => ⟨fun hm => ⟨?_, Nat.mod_lt _ hm, Nat.mul_mod _ _ _⟩, fun hm => ?_⟩⟩
  · rw [exec, execModmul, if_neg hm.ne', complete_residue_eq_committed]
  · rw [exec, execModmul, if_pos hm, raiseError_eq_failed, statusError_invalidArgument]

/-! ## MODEXP -/

/-- Settles O38: square-and-multiply gives the power's residue. -/
theorem modexpResult : Obligations.ModexpResult := by
  intro s hm
  rw [exec, execModexp, if_neg hm.ne', modPow_eq, complete_residue_eq_committed]

/-- Settles O39: each run commits the residue of a power or a product, and the residues agree by the laws of powers. -/
theorem modexpLaws : Obligations.ModexpLaws := by
  intro s g p e₁ e₂ hp
  have modexp {a b : Nat} := modexpResult { s with a := a, b := b, m := p } hp
  have modmul {a b : Nat} := ((modmulResult.2 { s with a := a, b := b, m := p }).1 hp).1
  have symmetric : (g ^ e₁ % p) ^ e₂ % p = (g ^ e₂ % p) ^ e₁ % p := by
    rw [← Nat.pow_mod, ← Nat.pow_mod, pow_right_comm]
  have additive : g ^ (e₁ + e₂) % p = (g ^ e₁ % p) * (g ^ e₂ % p) % p := by
    rw [pow_add, Nat.mul_mod]
  have square : g ^ 2 % p = g * g % p := by
    rw [pow_two]
  exact ⟨⟨_, _, _, _, modexp, modexp, modexp, modexp, symmetric⟩,
    ⟨_, _, _, _, modexp, modexp, modexp, modmul, additive⟩,
    ⟨_, _, modexp, modmul, square⟩⟩

/-! ## MODINV -/

/-- The value MODINV commits: the Bézout coefficient of `a`, reduced into `[0, m)` (R116, R117). -/
def bezoutResidue (m a : Nat) : Nat := ((eea m a).2 % (m : Int)).toNat

theorem bezoutResidue_lt {m : Nat} (hm : 0 < m) (a : Nat) : bezoutResidue m a < m := by
  have hlt := Int.emod_lt_of_pos (eea m a).2 (show (0 : Int) < m by omega)
  unfold bezoutResidue
  omega

/-- Bézout's equation mod `m`: the coefficient is an inverse of an `a` prime to `m` (R118, R119). -/
theorem mul_bezoutResidue {m a : Nat} (hm : 0 < m) (hgcd : Nat.gcd a m = 1) :
    a * bezoutResidue m a ≡ 1 [MOD m] := by
  obtain ⟨hfst, hbezout⟩ := eea_spec m a
  rw [hfst, Nat.gcd_comm, hgcd] at hbezout
  have hcast : (bezoutResidue m a : Int) = (eea m a).2 % m :=
    Int.toNat_of_nonneg (Int.emod_nonneg _ (by omega))
  rw [← Int.natCast_modEq_iff, Nat.cast_mul, hcast, mul_comm]
  exact ((Int.mod_modEq _ _).mul_right _).trans hbezout.symm

/-- Two residues that are inverses of the same number are equal (R119). -/
theorem inverse_unique {m a x y : Nat} (hgcd : Nat.gcd a m = 1) (hx : x < m) (hy : y < m)
    (hax : a * x ≡ 1 [MOD m]) (hay : a * y ≡ 1 [MOD m]) : y = x :=
  ((hay.trans hax.symm).cancel_left_of_coprime (Nat.gcd_comm a m ▸ hgcd)).eq_of_lt_of_lt hy hx

/-- Settles O40: Euclid's gcd chooses the branch, and the coefficient is the inverse. -/
theorem modinvResult : Obligations.ModinvResult := by
  intro s hm
  have hfst : (eea s.m s.a).1 = Nat.gcd s.a s.m := (eea_spec s.m s.a).1.trans (Nat.gcd_comm _ _)
  refine ⟨fun hgcd => ?_, fun hgcd => ?_⟩
  · have hlt := bezoutResidue_lt hm s.a
    have hinv := mul_bezoutResidue hm hgcd
    refine ⟨bezoutResidue s.m s.a, hlt, hinv, fun y hy hay => inverse_unique hgcd hlt hy hinv hay, ?_⟩
    rw [exec, execModinv, if_neg (by omega), if_neg (by rw [hfst]; exact not_not_intro hgcd), ← bezoutResidue,
      complete_residue_eq_committed]
  · rw [exec, execModinv, if_neg (by omega), if_pos (by rwa [hfst]), raiseError_eq_failed,
      statusError_noInverse]

/-! ## An MRTEST whose words come in two parts -/

/-- What a draw comes to when the words `more` follow: one that ended leaves them, one short of words goes on from the
words it holds (R136, R137). -/
def Draw.followedBy (n : Nat) (more : List Word) : Draw → Draw
  | .drawn a rest => .drawn a (rest ++ more)
  | .starved held => drawWitness n held more

theorem drawWitness_append (n : Nat) (first second : List Word) : ∀ buffer,
    drawWitness n buffer (first ++ second) = (drawWitness n buffer first).followedBy n second := by
  induction first with
  | nil => exact fun _ => rfl
  | cons w ws ih =>
    intro buffer
    rw [List.cons_append]
    simp only [drawWitness]
    split_ifs
    · exact ih _
    · rfl
    · exact ih _

/-- Where the draw for the round in progress is short of words, so are the rounds (R133). -/
theorem mrRounds_of_draw_starved {n : Nat} {buffer words held : List Word}
    (hd : drawWitness n buffer words = .starved held) (more passed : Nat) :
    mrRounds n more passed buffer words = .starved passed held := by
  cases more <;> simp only [mrRounds, hd]

theorem mrRounds_append_of_draw_starved {n : Nat} {buffer first held : List Word}
    (hd : drawWitness n buffer first = .starved held) (second : List Word) (more passed : Nat) :
    mrRounds n more passed buffer (first ++ second) = mrRounds n more passed held second := by
  cases more <;> simp only [mrRounds, drawWitness_append, hd, Draw.followedBy]

/-- Rounds short of words go on from the rounds passed and the words held, with the rounds up to `last` still to do
(R133, R137). -/
theorem mrRounds_append_of_starved {n last passed' more : Nat} {held : List Word} (second : List Word) :
    ∀ {passed buffer first}, more = last - passed →
      mrRounds n more passed buffer first = .starved passed' held →
      mrRounds n more passed buffer (first ++ second) = mrRounds n (last - passed') passed' held second := by
  induction more with
  | zero =>
    intro passed buffer first hmore h
    cases hd : drawWitness n buffer first with
    | starved held' =>
      rw [mrRounds_of_draw_starved hd] at h
      cases h
      rw [mrRounds_append_of_draw_starved hd, hmore]
    | drawn a rest =>
      simp only [mrRounds, hd] at h
      split at h <;> cases h
  | succ more ih =>
    intro passed buffer first hmore h
    cases hd : drawWitness n buffer first with
    | starved held' =>
      rw [mrRounds_of_draw_starved hd] at h
      cases h
      rw [mrRounds_append_of_draw_starved hd, hmore]
    | drawn a rest =>
      simp only [mrRounds, drawWitness_append, hd, Draw.followedBy] at h ⊢
      split_ifs at h ⊢
      exact ih (by omega) h

/-- What an MRTEST of `rounds` rounds does with the outcome of its rounds (R133, R137). -/
def afterRounds (rounds : Nat) (s : State) : Rounds → State
  | .failed i a rest => completeTest false (some a) (infoWord .mrComposite i (decomp s.a).2) (setRng rest s)
  | .passed a rest => completeTest true (some a) (infoWord .mrProbablePrime rounds (decomp s.a).2) (setRng rest s)
  | .starved passed buffer => setWork ⟨passed, buffer⟩ (setRng [] s)

/-- Where the prefilter passes, MRTEST is its rounds on the work held and the words offered, and the rest of the state
decides what becomes of them (R133). -/
theorem execMrtest_rounds {rounds : Nat} {s : State} (hrounds : rounds ≠ 0) (hpass : prefilter s.a = .pass) (w : Work)
    (ws : List Word) : exec (.mrtest rounds) { s with work := w, rng := ws } =
      .next (afterRounds rounds s (mrRounds s.a (rounds - 1 - w.passed) w.passed w.buffer ws)) := by
  rw [exec, execMrtest, if_neg hrounds]
  simp only [hpass]
  cases mrRounds s.a (rounds - 1 - w.passed) w.passed w.buffer ws with
  | failed => rfl
  | passed => rfl
  | starved => rfl

/-- Only an MRTEST that has rounds to do on an undecided number stays BUSY (R137). -/
theorem undecided_of_mrtest_busy {rounds : Nat} {s t : State} (h : exec (.mrtest rounds) s = .next t)
    (ht : t.seq = .busy) : rounds ≠ 0 ∧ prefilter s.a = .pass := by
  cases exec_answers h with
  | waits _ _ _ hrounds hpass => exact ⟨hrounds, hpass⟩
  | _ => cases ht

/-- Settles O50: an MRTEST that stays BUSY is starved, and its rounds go on where they stopped. -/
theorem mrtestResumes : Obligations.MrtestResumes := by
  intro s t rounds first second hbusy h ht
  obtain ⟨hrounds, hpass⟩ := undecided_of_mrtest_busy h ht
  have run (w ws) := execMrtest_rounds hrounds (s := s) hpass w ws
  obtain rfl := Host.Outcome.next.inj ((run s.work first).symm.trans h)
  cases hr : mrRounds s.a (rounds - 1 - s.work.passed) s.work.passed s.work.buffer first with
  | failed => rw [hr] at ht; cases ht
  | passed => rw [hr] at ht; cases ht
  | starved passed held =>
    have more := run s.work (first ++ second)
    rw [mrRounds_append_of_starved second rfl hr] at more
    exact (run ⟨passed, held⟩ second).trans more.symm

end Sys2Proof.Machine
end

section
/-! PROOFS of the family 41_primality: the prefilter, one Miller-Rabin round, the rounds of an MRTEST on the words of
given witnesses, and what all this says of a prime. -/

namespace Sys2Proof.Machine

/-! ## An IDLE engine and the random source -/

/-- Settles O60: the turn of an IDLE engine is no turn, and an offer is one write of the words offered. -/
theorem idleTurnAndOfferChangeNothing : Obligations.IdleTurnAndOfferChangeNothing := fun s es _ =>
  ⟨fun hidle hs => (step_of_no_event hs).trans (engineTurn_idle hidle),
    fun hidle hs => (step_of_event hs).trans (engineTurn_idle (s := setSchedule es s) hidle),
    fun hs => step_of_event hs⟩

/-! ## What the prefilter decides -/

theorem prefilter_belowTwo {n : Nat} (h : n < 2) : prefilter n = .decided .belowTwo false := by
  rw [prefilter, if_pos h]

theorem prefilter_smallPrime {n : Nat} (h : n ∈ Config.smallPrimes) : prefilter n = .decided .smallPrime true := by
  have hbelow : ∀ p ∈ Config.smallPrimes, ¬ p < 2 := by decide
  rw [prefilter, if_neg (hbelow n h), if_pos h]

theorem prefilter_smallFactor {n : Nat} (htwo : ¬ n < 2) (hprime : n ∉ Config.smallPrimes)
    (hfactor : ∃ p ∈ Config.smallPrimes, p ∣ n) : prefilter n = .decided .smallFactor false := by
  simp only [Nat.dvd_iff_mod_eq_zero] at hfactor
  rw [prefilter, if_neg htwo, if_neg hprime, if_pos hfactor]

/-- The class PREFILTER_PASS is no decision of the prefilter (R131). -/
theorem code_ne_four_of_decided {n : Nat} {c : PrimeClass} {result : Bool} (h : prefilter n = .decided c result) :
    c.code ≠ 4 := by
  unfold prefilter at h
  split_ifs at h <;> cases h <;> decide

/-- The numbers left undecided are those without a small prime divisor (R127). -/
theorem undecided_iff {n : Nat} : Undecided n ↔ ¬ n < 2 ∧ ¬ ∃ p ∈ Config.smallPrimes, p ∣ n := by
  simp only [Undecided, Config.smallPrimes, Nat.dvd_iff_mod_eq_zero, not_exists, not_and, Nat.not_lt, ne_eq]

/-! ## What TRIALDIV and MRTEST make of it -/

theorem exec_trialdiv_of_decided {s : State} {c : PrimeClass} {result : Bool}
    (h : prefilter s.a = .decided c result) :
    exec .trialdiv s = .next (completeTest result none (infoWord c 0 0) s) := by
  simp only [exec, execTrialdiv, h]

theorem exec_trialdiv_of_pass {s : State} (h : prefilter s.a = .pass) :
    exec .trialdiv s = .next (completeTest false none (infoWord .prefilterPass 0 0) s) := by
  simp only [exec, execTrialdiv, h]

/-- Where the prefilter decides, MRTEST completes with its class and its result, whatever words are offered (R133). -/
theorem exec_mrtest_of_decided {rounds : Nat} {s : State} {c : PrimeClass} {result : Bool} (hrounds : rounds ≠ 0)
    (h : prefilter s.a = .decided c result) :
    exec (.mrtest rounds) s = .next (completeTest result none (infoWord c 0 0) s) := by
  simp only [exec, execMrtest, if_neg hrounds, h]

/-- On an undecided number, MRTEST is its rounds from the work it holds on the words offered (R133, R137). -/
theorem exec_mrtest_of_pass {rounds : Nat} {s : State} (hrounds : rounds ≠ 0) (hpass : prefilter s.a = .pass) :
    exec (.mrtest rounds) s = .next (afterRounds rounds s
      (mrRounds s.a (rounds - 1 - s.work.passed) s.work.passed s.work.buffer s.rng)) :=
  execMrtest_rounds hrounds hpass s.work s.rng

/-- Settles O41: the four outcomes of the prefilter. -/
theorem trialdivResult : Obligations.TrialdivResult := by
  intro s
  split_ifs with htwo hprime hfactor
  · exact exec_trialdiv_of_decided (prefilter_belowTwo htwo)
  · exact exec_trialdiv_of_decided (prefilter_smallPrime hprime)
  · exact exec_trialdiv_of_decided (prefilter_smallFactor htwo hprime hfactor)
  · exact exec_trialdiv_of_pass ((prefilter_pass_iff s.a).mpr (undecided_iff.mpr ⟨htwo, hfactor⟩))

/-- Settles O44: the three outcomes in which the prefilter decides. -/
theorem mrtestDecidedByPrefilter : Obligations.MrtestDecidedByPrefilter := by
  intro s rounds hrounds hdecided
  have decided {c : PrimeClass} {result : Bool} (h : prefilter s.a = .decided c result) :=
    exec_mrtest_of_decided (Nat.ne_of_gt hrounds) h
  split_ifs with htwo hprime
  · exact decided (prefilter_belowTwo htwo)
  · exact decided (prefilter_smallPrime hprime)
  · have hfactor : ∃ p ∈ Config.smallPrimes, p ∣ s.a := by
      by_contra hnone
      exact hdecided (undecided_iff.mpr ⟨htwo, hnone⟩)
    exact decided (prefilter_smallFactor htwo hprime hfactor)

/-! ## The numbers that pass the prefilter -/

/-- The small-prime set holds every prime below 31 (R126). -/
theorem mem_smallPrimes_of_prime {p : Nat} (hp : p.Prime) (hlt : p < 31) : p ∈ Config.smallPrimes := by
  have complete : ∀ q < 31, q.Prime → q ∈ Config.smallPrimes := by decide
  exact complete p hlt hp

theorem Undecided.not_dvd {n p : Nat} (h : Undecided n) (hp : p.Prime) (hlt : p < 31) : ¬ p ∣ n := fun hdvd =>
  (undecided_iff.mp h).2 ⟨p, mem_smallPrimes_of_prime hp hlt, hdvd⟩

theorem Undecided.odd {n : Nat} (h : Undecided n) : n % 2 = 1 := by
  have htwo := h.not_dvd Nat.prime_two (by norm_num)
  omega

/-- The least prime factor of an undecided number is none of the primes below 31 (R128). -/
theorem Undecided.le {n : Nat} (h : Undecided n) : 31 ≤ n := by
  have htwo : 2 ≤ n := h.1
  have hleast : 31 ≤ n.minFac := by
    by_contra hlt
    exact h.not_dvd (Nat.minFac_prime (by omega)) (by omega) n.minFac_dvd
  exact hleast.trans (Nat.minFac_le (by omega))

/-- TRIALDIV reports PREFILTER_PASS for the undecided numbers alone (R131). -/
theorem prefilter_pass_of_trialdiv {s t : State} (h : exec .trialdiv s = .next t) (ht : t.info = 0x00000004) :
    prefilter s.a = .pass := by
  cases hp : prefilter s.a with
  | pass => rfl
  | decided c result =>
    have hinfo : t.info = infoWord c 0 0 := by
      rw [exec_trialdiv_of_decided hp] at h
      cases h
      rfl
    have hclass : c.code = 4 := by
      rw [← classField_infoWord c 0 0, ← hinfo, ht]
      rfl
    exact absurd hclass (code_ne_four_of_decided hp)

/-- Settles O42: PREFILTER_PASS means undecided, so A is odd, at least 31 and free of the primes below 31. -/
theorem prefilterSurvivors : Obligations.PrefilterSurvivors := by
  intro s t h ht
  have hund : Undecided s.a := (prefilter_pass_iff s.a).mp (prefilter_pass_of_trialdiv h ht)
  have hodd := hund.odd
  have hle := hund.le
  refine ⟨hodd, hle, by omega, by omega, fun d e heq hd => ?_, ?_, fun p => hund.not_dvd⟩
  · by_contra hzero
    obtain rfl : e = 0 := by omega
    rw [pow_zero] at heq
    omega
  · rw [Nat.card_Icc]
    omega

/-! ## One Miller-Rabin round -/

/-- The class a round or a whole test of rounds reports (R40). -/
def roundClass (passes : Bool) : PrimeClass := if passes then .mrProbablePrime else .mrComposite

/-- MRROUND on legal operands commits whether the round passes (R132). -/
theorem exec_mrround_of_legal {s : State} (ha : 5 ≤ s.a) (hodd : s.a % 2 = 1) (hlo : 2 ≤ s.x) (hhi : s.x + 2 ≤ s.a) :
    exec .mrround s = .next (completeTest (mrRound s.a s.x) none
      (infoWord (roundClass (mrRound s.a s.x)) 1 (decomp s.a).2) s) := by
  rw [exec, execMrround, if_neg (by omega)]
  cases mrRound s.a s.x <;> rfl

/-- INFO as one number: S from bit 16, RDONE from bit 8, CLASS (R39, R131). -/
theorem infoWord_eq_ofNat (c : PrimeClass) {k : Nat} (hk : k < 256) (e : Nat) :
    infoWord c k e = BitVec.ofNat 32 (e * 65536 + (k * 256 + c.code.toNat)) := by
  have hc := c.code.isLt
  have hk' : k % 2 ^ 8 = k := Nat.mod_eq_of_lt hk
  apply BitVec.eq_of_toNat_eq
  rw [infoWord, BitVec.toNat_append, BitVec.toNat_append, BitVec.toNat_append, BitVec.toNat_ofNat, BitVec.toNat_ofNat,
    BitVec.toNat_ofNat, BitVec.toNat_ofNat, ← Nat.shiftLeft_add_eq_or_of_lt hc, Nat.zero_mod, Nat.or_zero,
    ← Nat.shiftLeft_add_eq_or_of_lt (Nat.mod_lt _ (by norm_num))]
  simp only [Nat.shiftLeft_eq]
  omega

/-- Settles O43: the round decides between the two completions. -/
theorem mrroundResult : Obligations.MrroundResult := by
  refine ⟨by decide, fun s => ⟨fun h => ?_, fun d e ha hodd hlo hhi heq hd => ?_⟩⟩
  · rw [exec, execMrround, if_pos (by omega), raiseError_eq_failed, statusError_invalidArgument]
  · have hpasses := mrRound_spec (a := s.x) (show 3 ≤ s.a by omega) hodd heq hd
    rw [exec_mrround_of_legal ha hodd hlo hhi, decomp_eq (by omega) heq hd, infoWord_eq_ofNat _ (by norm_num)]
    refine ⟨fun h => ?_, fun h => ?_⟩
    · rw [hpasses.mpr h]
      rfl
    · rw [Bool.eq_false_iff.mpr (mt hpasses.mp h)]
      rfl

/-- A round passes for an odd `n` exactly where `RoundPasses` says so, whichever decomposition it names (R129, R130). -/
theorem mrRound_iff_roundPasses {n : Nat} (hn : 3 ≤ n) (hodd : n % 2 = 1) (a : Nat) :
    mrRound n a = true ↔ RoundPasses n a := by
  constructor
  · intro h
    obtain ⟨d, e, heq, hd⟩ := decomp_exists hn
    exact ⟨d, e, heq, hd, (mrRound_spec hn hodd heq hd).mp h⟩
  · rintro ⟨d, e, heq, hd, h⟩
    exact (mrRound_spec hn hodd heq hd).mpr h

/-! ## A prime passes every round -/

/-- Where 1 has only the square roots 1 and -1, the squarings from `y` to 1 start at 1 or meet -1 (R134). -/
theorem eq_one_or_pow_eq_neg_one {R : Type*} [Ring R] [NoZeroDivisors R] {y : R} {e : Nat} (h : y ^ 2 ^ e = 1) :
    y = 1 ∨ ∃ i < e, y ^ 2 ^ i = -1 := by
  induction e with
  | zero => exact .inl (by rwa [pow_zero, pow_one] at h)
  | succ e ih =>
    rw [pow_succ, pow_mul, pow_two, mul_self_eq_one_iff] at h
    rcases h with hone | hneg
    · exact (ih hone).imp_right fun ⟨i, hi, hroot⟩ => ⟨i, by omega, hroot⟩
    · exact .inr ⟨e, by omega, hneg⟩

/-- A prime passes a round with every witness: Fermat's theorem, and the square roots of 1 in a field (R134). -/
theorem mrRound_of_prime {p a : Nat} (hp : p.Prime) (hfive : 5 ≤ p) (hlo : 2 ≤ a) (hhi : a + 2 ≤ p) :
    mrRound p a = true := by
  have : Fact p.Prime := ⟨hp⟩
  have hodd : p % 2 = 1 := hp.eq_two_or_odd.resolve_left (by omega)
  obtain ⟨d, e, heq, hd⟩ := decomp_exists (show 3 ≤ p by omega)
  rw [mrRound_spec (by omega) hodd heq hd]
  have ha : (a : ZMod p) ≠ 0 := by
    rw [Ne, ZMod.natCast_eq_zero_iff]
    exact Nat.not_dvd_of_pos_of_lt (by omega) (by omega)
  have residue {b : Nat} (hb : b < p) (k : Nat) : a ^ k % p = b ↔ (a : ZMod p) ^ k = b := by
    rw [← Nat.cast_pow, ZMod.natCast_eq_natCast_iff', Nat.mod_eq_of_lt hb]
  have residue_neg_one (k : Nat) : a ^ k % p = p - 1 ↔ (a : ZMod p) ^ k = -1 := by
    rw [residue (by omega), Nat.cast_pred hp.pos, ZMod.natCast_self, zero_sub]
  have hroot : ((a : ZMod p) ^ d) ^ 2 ^ e = 1 := by
    rw [← pow_mul, ← heq, ZMod.pow_card_sub_one_eq_one ha]
  simp only [residue hp.one_lt, residue_neg_one, Nat.cast_one, pow_mul (a : ZMod p) d]
  exact eq_one_or_pow_eq_neg_one hroot

/-- Settles O52: the round of a prime passes. -/
theorem primePassesEveryRound : Obligations.PrimePassesEveryRound := by
  intro s hp hfive hlo hhi
  refine ⟨(decomp s.a).2, ?_⟩
  rw [exec_mrround_of_legal hfive (hp.eq_two_or_odd.resolve_left (by omega)) hlo hhi,
    mrRound_of_prime hp hfive hlo hhi, infoWord_eq_ofNat _ (by norm_num)]
  rfl

/-- The prefilter decides no prime but those of its own set, which it answers 1 for (R127, R134). -/
theorem prefilter_of_prime {p : Nat} (hp : p.Prime) :
    prefilter p = .decided .smallPrime true ∨ prefilter p = .pass := by
  by_cases hsmall : p ∈ Config.smallPrimes
  · exact .inl (prefilter_smallPrime hsmall)
  · refine .inr ((prefilter_pass_iff p).mpr (undecided_iff.mpr ⟨by have := hp.two_le; omega, ?_⟩))
    rintro ⟨q, hq, hdvd⟩
    have prime : ∀ q ∈ Config.smallPrimes, q.Prime := by decide
    exact hsmall ((Nat.prime_dvd_prime_iff_eq (prime q hq) hp).mp hdvd ▸ hq)

/-- The rounds fail only with a witness that does not pass (R133). -/
theorem mrRound_of_mrRounds_failed {n : Nat} : ∀ {more passed buffer words i a rest},
    mrRounds n more passed buffer words = .failed i a rest → mrRound n a = false := by
  intro more
  induction more with
  | zero =>
    intro passed buffer words i a rest h
    rw [mrRounds] at h
    split at h
    · cases h
    · split at h
      · cases h
      · next hround => cases h; exact Bool.eq_false_iff.mpr hround
  | succ more ih =>
    intro passed buffer words i a rest h
    rw [mrRounds] at h
    split at h
    · cases h
    · split at h
      · exact ih h
      · next hround => cases h; exact Bool.eq_false_iff.mpr hround

/-- Settles O51: a prime's witnesses lie in range and pass, so no round fails. -/
theorem primeIsNeverRejected : Obligations.PrimeIsNeverRejected := by
  intro s t rounds hbusy hrounds hp h hidle
  rcases prefilter_of_prime hp with hsmall | hpass
  · rw [exec_mrtest_of_decided (by omega) hsmall] at h
    cases h
    exact ⟨rfl, rfl, .inl rfl⟩
  · have hfive := five_le_of_prefilter_pass hpass
    rw [exec_mrtest_of_pass (Nat.ne_of_gt hrounds) hpass] at h
    cases hr : mrRounds s.a (rounds - 1 - s.work.passed) s.work.passed s.work.buffer s.rng with
    | failed i a rest =>
      obtain ⟨hlo, hhi⟩ := mrRounds_witness_range (n := s.a) (by omega) _ _ _ _ a (by rw [hr]; rfl)
      cases (mrRound_of_prime hp hfive hlo hhi).symm.trans (mrRound_of_mrRounds_failed hr)
    | passed a rest =>
      rw [hr] at h
      cases h
      exact ⟨rfl, rfl, .inr ⟨classField_infoWord _ _ _, rdoneField_infoWord _ _ _⟩⟩
    | starved passed held =>
      rw [hr] at h
      cases h
      cases hbusy.symm.trans hidle

/-! ## Words and witnesses -/

/-- `bitlength` is the library's binary length (R14). -/
theorem bitlength_eq_size (v : Nat) : bitlength v = Nat.size v := by
  refine le_antisymm ?_ (Nat.size_le.mpr (lt_two_pow_bitlength v))
  unfold bitlength
  split_ifs with hzero
  · exact Nat.zero_le _
  · exact Nat.lt_size.mpr (Nat.log2_self_le hzero)

/-- An attempt that gets its last words ends: with their value plus 2, or, that being too large, with a new attempt on
the words after them (R136). -/
theorem drawWitness_attempt {n : Nat} (rest : List Word) : ∀ {ws buffer}, ws ≠ [] →
    buffer.length + ws.length = attemptWords n →
    drawWitness n buffer (ws ++ rest) =
      if valueOfWords (buffer ++ ws) % 2 ^ attemptBits n ≤ n - 4
      then .drawn (valueOfWords (buffer ++ ws) % 2 ^ attemptBits n + 2) rest
      else drawWitness n [] rest := by
  intro ws
  induction ws with
  | nil => exact fun hne => absurd rfl hne
  | cons w ws ih =>
    intro buffer _ hlen
    rw [List.length_cons] at hlen
    rw [List.cons_append, drawWitness]
    simp only [List.length_append, List.length_singleton]
    cases ws with
    | nil =>
      rw [if_neg (by rw [List.length_nil] at hlen; omega)]
      rfl
    | cons w' ws =>
      rw [if_pos (by rw [List.length_cons] at hlen; omega),
        ih (List.cons_ne_nil _ _) (by rw [List.length_append, List.length_singleton]; omega), List.append_assoc,
        List.singleton_append]

/-- Settles O47: the words are those of one attempt. -/
theorem samplingAttempt : Obligations.SamplingAttempt := by
  intro n ws rest hn hlen
  rw [← bitlength_eq_size] at hlen ⊢
  have hpos : 0 < attemptWords n := attemptWords_pos (by omega)
  exact drawWitness_attempt rest (List.ne_nil_of_length_pos (hlen ▸ hpos)) ((Nat.zero_add _).trans hlen)

theorem wordsOfValue_length (v : Nat) : ∀ k, (wordsOfValue k v).length = k := by
  intro k
  induction k generalizing v with
  | zero => rfl
  | succ k ih => rw [wordsOfValue, List.length_cons, ih]

/-- The words of `a - 2` draw the witness `a` (R136). -/
theorem drawWitness_wordsOfValue {n a : Nat} (hn : 5 ≤ n) (hlo : 2 ≤ a) (hhi : a + 2 ≤ n) (rest : List Word) :
    drawWitness n [] (wordsOfValue (attemptWords n) (a - 2) ++ rest) = .drawn a rest := by
  have hlen := wordsOfValue_length (a - 2) (attemptWords n)
  have hpos := attemptWords_pos hn
  have hbits : a - 2 < 2 ^ attemptBits n :=
    lt_of_le_of_lt (show a - 2 ≤ n - 4 by omega) (lt_two_pow_bitlength (n - 4))
  have hwords : a - 2 < 2 ^ (32 * attemptWords n) :=
    hbits.trans_le (Nat.pow_le_pow_right (by norm_num) (by unfold attemptWords; omega))
  have hne : wordsOfValue (attemptWords n) (a - 2) ≠ [] := List.ne_nil_of_length_pos (by rwa [hlen])
  rw [drawWitness_attempt (buffer := []) rest hne ((Nat.zero_add _).trans hlen), List.nil_append,
    valueOfWords_wordsOfValue, Nat.mod_eq_of_lt hwords, Nat.mod_eq_of_lt hbits, if_pos (by omega),
    Nat.sub_add_cancel hlo]

/-! ## The rounds of an MRTEST on given witnesses -/

theorem witnessWords_cons (n a : Nat) (witnesses : List Nat) (rest : List Word) :
    witnessWords n (a :: witnesses) ++ rest =
      wordsOfValue (attemptWords n) (a - 2) ++ (witnessWords n witnesses ++ rest) := by
  rw [witnessWords, List.flatMap_cons, List.append_assoc, ← witnessWords]

theorem witnessWords_append (n : Nat) (front back : List Nat) (rest : List Word) :
    witnessWords n (front ++ back) ++ rest = witnessWords n front ++ (witnessWords n back ++ rest) := by
  rw [witnessWords, List.flatMap_append, List.append_assoc, ← witnessWords, ← witnessWords]

/-- Witnesses that pass take their words and their rounds, and leave the rest to what follows them (R133). -/
theorem mrRounds_of_passing {n : Nat} (hn : 5 ≤ n) (more : Nat) (rest : List Word) : ∀ {front passed},
    (∀ w ∈ front, (2 ≤ w ∧ w + 2 ≤ n) ∧ mrRound n w = true) →
    mrRounds n (front.length + more) passed [] (witnessWords n front ++ rest) =
      mrRounds n more (passed + front.length) [] rest := by
  intro front
  induction front with
  | nil =>
    intro passed _
    rw [List.length_nil, Nat.zero_add]
    rfl
  | cons w front ih =>
    intro passed h
    obtain ⟨⟨⟨hlo, hhi⟩, hround⟩, hfront⟩ := List.forall_mem_cons.mp h
    rw [witnessWords_cons, List.length_cons, Nat.add_right_comm, mrRounds, drawWitness_wordsOfValue hn hlo hhi]
    simp only [hround, if_true, ih hfront]
    rw [Nat.add_assoc, Nat.add_comm 1]

/-- The last round passes: the test has passed (R133). -/
theorem mrRounds_last_passes {n a : Nat} (hn : 5 ≤ n) (ha : 2 ≤ a ∧ a + 2 ≤ n) (hround : mrRound n a = true)
    (passed : Nat) (rest : List Word) : mrRounds n 0 passed [] (witnessWords n [a] ++ rest) = .passed a rest := by
  have drawn := drawWitness_wordsOfValue hn ha.1 ha.2 rest
  simp [mrRounds, drawn, hround, witnessWords]

/-- A round fails, whatever rounds were still to do: the test has failed (R133). -/
theorem mrRounds_next_fails {n a : Nat} (hn : 5 ≤ n) (ha : 2 ≤ a ∧ a + 2 ≤ n) (hround : mrRound n a = false)
    (more passed : Nat) (rest : List Word) :
    mrRounds n more passed [] (witnessWords n [a] ++ rest) = .failed (passed + 1) a rest := by
  have drawn := drawWitness_wordsOfValue hn ha.1 ha.2 rest
  cases more <;> simp [mrRounds, drawn, hround, witnessWords]

/-- An MRTEST with no work held, on an undecided number, is its rounds on the words offered (R133). -/
theorem exec_mrtest_of_fresh {s : State} (hund : Undecided s.a) (hwork : s.work = .fresh) {rounds : Nat}
    (hrounds : rounds ≠ 0) :
    exec (.mrtest rounds) s = .next (afterRounds rounds s (mrRounds s.a (rounds - 1) 0 [] s.rng)) := by
  rw [exec_mrtest_of_pass hrounds ((prefilter_pass_iff s.a).mpr hund), hwork]
  rfl

/-- All the witnesses pass (R133). -/
theorem exec_mrtest_all_pass {s : State} {front : List Nat} {a : Nat} {rest : List Word} (hund : Undecided s.a)
    (hwork : s.work = .fresh) (hpass : ∀ w ∈ front ++ [a], (2 ≤ w ∧ w + 2 ≤ s.a) ∧ mrRound s.a w = true)
    (hrng : s.rng = witnessWords s.a (front ++ [a]) ++ rest) :
    exec (.mrtest (front.length + 1)) s = .next (afterRounds (front.length + 1) s (.passed a rest)) := by
  have hn : 5 ≤ s.a := le_trans (by norm_num) hund.le
  obtain ⟨hfront, hlast⟩ := List.forall_mem_append.mp hpass
  obtain ⟨ha, hround⟩ := hlast a (List.mem_singleton_self a)
  have rounds := mrRounds_of_passing hn 0 (witnessWords s.a [a] ++ rest) (passed := 0) hfront
  rw [exec_mrtest_of_fresh hund hwork (Nat.add_one_ne_zero _), hrng, witnessWords_append, Nat.add_sub_cancel,
    ← Nat.add_zero front.length, rounds, mrRounds_last_passes hn ha hround]

/-- A witness fails after `front` have passed (R133). -/
theorem exec_mrtest_first_failure {s : State} {front : List Nat} {a rounds : Nat} {rest : List Word}
    (hund : Undecided s.a) (hwork : s.work = .fresh) (hlen : front.length < rounds)
    (hpass : ∀ w ∈ front, (2 ≤ w ∧ w + 2 ≤ s.a) ∧ mrRound s.a w = true) (ha : 2 ≤ a ∧ a + 2 ≤ s.a)
    (hround : mrRound s.a a = false) (hrng : s.rng = witnessWords s.a (front ++ [a]) ++ rest) :
    exec (.mrtest rounds) s = .next (afterRounds rounds s (.failed (front.length + 1) a rest)) := by
  have hn : 5 ≤ s.a := le_trans (by norm_num) hund.le
  obtain ⟨more, hmore⟩ := Nat.exists_eq_add_of_lt hlen
  rw [exec_mrtest_of_fresh hund hwork (by omega), hrng, witnessWords_append, hmore, Nat.add_sub_cancel,
    mrRounds_of_passing hn more _ hpass, mrRounds_next_fails hn ha hround, Nat.zero_add]

theorem Undecided.mrRound_iff {n : Nat} (h : Undecided n) (a : Nat) : mrRound n a = true ↔ RoundPasses n a :=
  mrRound_iff_roundPasses (le_trans (by norm_num) h.le) h.odd a

theorem Undecided.passing_witnesses {n : Nat} (h : Undecided n) {witnesses : List Nat}
    (hpass : ∀ w ∈ witnesses, 2 ≤ w ∧ w + 2 ≤ n ∧ RoundPasses n w) :
    ∀ w ∈ witnesses, (2 ≤ w ∧ w + 2 ≤ n) ∧ mrRound n w = true := by
  intro w hw
  obtain ⟨hlo, hhi, hround⟩ := hpass w hw
  exact ⟨⟨hlo, hhi⟩, (h.mrRound_iff w).mpr hround⟩

/-- Settles O45: each round passes, and INFO counts them. -/
theorem mrtestAllRoundsPass : Obligations.MrtestAllRoundsPass := by
  intro s d e front a rest hund heq hd hwork hlen hpass hrng
  rw [exec_mrtest_all_pass hund hwork (hund.passing_witnesses hpass) hrng, afterRounds,
    decomp_eq (le_trans (by norm_num) hund.le) heq hd, infoWord_eq_ofNat _ (by omega), ← Nat.add_assoc]
  rfl

/-- Settles O46: the rounds up to the failing one are done, and INFO counts them. -/
theorem mrtestStopsAtFailingRound : Obligations.MrtestStopsAtFailingRound := by
  intro s d e rounds front a rest hund heq hd hwork hlen hmax hpass hlo hhi hfail hrng
  have hround : mrRound s.a a = false := Bool.eq_false_iff.mpr (mt (hund.mrRound_iff a).mp hfail)
  rw [exec_mrtest_first_failure hund hwork hlen (hund.passing_witnesses hpass) ⟨hlo, hhi⟩ hround hrng, afterRounds,
    decomp_eq (le_trans (by norm_num) hund.le) heq hd, infoWord_eq_ofNat _ (by omega), ← Nat.add_assoc]
  rfl

/-! ## MRTEST short of words -/

/-- Settles O49: without a word the rounds stop where they are; and of the ways a command can end its turn, waiting is
the one that leaves the engine BUSY. -/
theorem starvedMrtestStaysBusy : Obligations.StarvedMrtestStaysBusy := by
  intro s rounds hbusy hrounds hund
  refine ⟨fun hrng => ?_, fun t h ht => ?_⟩
  · rw [exec_mrtest_of_pass (by omega) ((prefilter_pass_iff s.a).mpr hund), hrng, mrRounds_of_draw_starved rfl,
      afterRounds, ← hrng]
    rfl
  · cases completes_of_exec h with
    | success => exact absurd rfl ht
    | error => exact absurd rfl ht
    | waits => rfl

/-! ## MRTEST is TRIALDIV followed by MRROUND -/

/-- MRROUND answers 1 for a legal witness exactly where the round passes (R132). -/
theorem mrround_answers_one_iff {s : State} {w : Nat} (hund : Undecided s.a) (hw : 2 ≤ w ∧ w + 2 ≤ s.a) :
    (∃ v, exec .mrround { s with x := w } = .next v ∧ v.r = 1) ↔ mrRound s.a w = true := by
  have hfive : 5 ≤ s.a := le_trans (by norm_num) hund.le
  rw [exec_mrround_of_legal (s := { s with x := w }) hfive hund.odd hw.1 hw.2]
  simp only [Host.Outcome.next.injEq, exists_eq_left', completeTest, complete_r, Bool.toNat_eq_one]

/-- Settles O53: TRIALDIV and MRTEST share the prefilter; after it, either all the witnesses pass or there is a first
one that does not. -/
theorem mrtestIsTrialdivThenRounds : Obligations.MrtestIsTrialdivThenRounds := by
  intro s witnesses rest hbusy hwork hne
  refine ⟨fun t h ht => ?_, fun t h ht hrange hrng => ?_⟩
  · cases hp : prefilter s.a with
    | pass =>
      rw [exec_trialdiv_of_pass hp] at h
      cases h
      exact absurd rfl ht
    | decided c result =>
      rw [exec_mrtest_of_decided (by rwa [Ne, List.length_eq_zero_iff]) hp, ← exec_trialdiv_of_decided hp, h]
  · have hund : Undecided s.a := (prefilter_pass_iff s.a).mp (prefilter_pass_of_trialdiv h ht)
    have hone : (∀ w ∈ witnesses, ∃ v, exec .mrround { s with x := w } = .next v ∧ v.r = 1) ↔
        ∀ w ∈ witnesses, mrRound s.a w = true :=
      forall₂_congr fun w hw => mrround_answers_one_iff hund (hrange w hw)
    rw [hone]
    cases hfind : witnesses.find? fun w => !mrRound s.a w with
    | none =>
      have hpass : ∀ w ∈ witnesses, mrRound s.a w = true := by simpa using hfind
      obtain ⟨front, a, rfl⟩ := (List.eq_nil_or_concat' witnesses).resolve_left hne
      have run := exec_mrtest_all_pass hund hwork (fun w hw => ⟨hrange w hw, hpass w hw⟩) hrng
      rw [List.length_append, List.length_singleton]
      exact ⟨_, run, rfl, .inr rfl, iff_of_true rfl hpass⟩
    | some a =>
      obtain ⟨hfail, front, back, rfl, hfront⟩ := List.find?_eq_some_iff_append.mp hfind
      have ha : a ∈ front ++ a :: back := List.mem_append_right _ List.mem_cons_self
      have hround : mrRound s.a a = false := by simpa using hfail
      rw [List.append_cons, witnessWords_append] at hrng
      have run := exec_mrtest_first_failure hund hwork (rounds := (front ++ a :: back).length) (by simp)
        (fun w hw => ⟨hrange w (List.mem_append_left _ hw), by simpa using hfront w hw⟩) (hrange a ha) hround hrng
      refine ⟨_, run, rfl, .inl rfl, iff_of_false Nat.zero_ne_one fun hall => ?_⟩
      cases hround.symm.trans (hall a ha)

end Sys2Proof.Machine
end

section
/-! PROOFS of the family 60_exceptions: when each of the three errors is raised, and the interrupt output. -/

namespace Sys2Proof.Machine

/-! ## The outcomes that are not the error in question -/

/-- STATUS shows an error after one, and none after a success (R107, R108). -/
theorem error_ne_success {e : ErrCode} {r : Nat} {x : Option Nat} {info : Word} {result : Bool} {s t : State} :
    (.next (raiseError e s) : Host.Outcome State Fault Refusal) ≠ .next (complete r x info result t) := fun h => by
  have herr := congrArg (errBit ·.status) (Host.Outcome.next.inj h)
  rw [raiseError_status, complete_status, errBit_statusError, errBit_statusDone] at herr
  cases herr

/-- STATUS tells the errors apart (R151). -/
theorem error_ne_error {e e' : ErrCode} {s : State} (he : e ≠ e') :
    (.next (raiseError e s) : Host.Outcome State Fault Refusal) ≠ .next (raiseError e' s) := fun h => by
  have codes : ∀ e e' : ErrCode, statusError e = statusError e' → e = e' := by
    intro e e'
    cases e <;> cases e' <;> decide
  exact he (codes e e' (congrArg State.status (Host.Outcome.next.inj h)))

/-- An error leaves the engine IDLE, and a command that waits for words keeps it BUSY (R108, R137). -/
theorem error_ne_waits {s : State} {e : ErrCode} {w : Work} {ws : List Word} (hbusy : s.seq = .busy) :
    (.next (raiseError e s) : Host.Outcome State Fault Refusal) ≠ .next (setWork w (setRng ws s)) := fun h => by
  have hseq := congrArg State.seq (Host.Outcome.next.inj h)
  rw [raiseError_seq, setWork_seq, setRng_seq, hbusy] at hseq
  cases hseq

/-! ## INVALID_ARGUMENT and NO_INVERSE -/

/-- Settles O27: the first check of each command raises INVALID_ARGUMENT, and nothing after it does. -/
theorem invalidArgumentExactly : Obligations.InvalidArgumentExactly := by
  intro i s hbusy
  rw [← statusError_invalidArgument, ← raiseError_eq_failed]
  cases i with
  | modmul => exact error_ne_success.ite_eq_left_iff
  | modexp => exact error_ne_success.ite_eq_left_iff
  | modinv =>
    refine Ne.ite_eq_left_iff ?_
    split
    · exact error_ne_error (by decide)
    · exact error_ne_success
  | trialdiv =>
    refine iff_false_intro ?_
    cases hp : prefilter s.a with
    | decided => rw [exec_trialdiv_of_decided hp]; exact error_ne_success.symm
    | pass => rw [exec_trialdiv_of_pass hp]; exact error_ne_success.symm
  | mrround =>
    refine Iff.trans (Ne.ite_eq_left_iff ?_) (by omega)
    split <;> exact error_ne_success
  | mrtest rounds =>
    refine Ne.ite_eq_left_iff ?_
    split
    · exact error_ne_success
    · split
      · exact error_ne_success
      · exact error_ne_success
      · exact error_ne_waits hbusy

/-- Settles O28: with an inverse MODINV succeeds, without one it ends with NO_INVERSE. -/
theorem noInverseExactly : Obligations.NoInverseExactly := by
  intro s hm
  obtain ⟨inverse, noInverse⟩ := modinvResult s hm
  refine ⟨fun h hgcd => ?_, noInverse⟩
  obtain ⟨x, -, -, -, hx⟩ := inverse hgcd
  rw [h, ← complete_residue_eq_committed, ← statusError_noInverse, ← raiseError_eq_failed] at hx
  exact error_ne_success hx

/-! ## The interrupt output -/

/-- The output is high exactly while an enabled source is pending (R160). -/
theorem irq_eq_true_iff (s : State) :
    irq s = true ↔ (s.irqStat.getLsbD 0 = true ∧ s.irqEn.getLsbD 0 = true) ∨
      (s.irqStat.getLsbD 1 = true ∧ s.irqEn.getLsbD 1 = true) := by
  simp only [irq, Bool.or_eq_true, Bool.and_eq_true]

theorem irq_of_done {s : State} (hpending : s.irqStat.getLsbD 0 = true) (henabled : s.irqEn.getLsbD 0 = true) :
    irq s = true :=
  (irq_eq_true_iff s).mpr (.inl ⟨hpending, henabled⟩)

theorem irq_of_cleared {s : State} (hdone : s.irqStat.getLsbD 0 = false) (hovr : s.irqStat.getLsbD 1 = false) :
    irq s = false := by
  rw [irq, hdone, hovr, Bool.false_and, Bool.false_and, Bool.or_self]

/-- Settles O31: a completion sets DONE_IP and keeps IRQ_EN; the two register writes act bit by bit. -/
theorem interruptLevel : Obligations.InterruptLevel := by
  refine fun s t => ⟨irq_eq_true_iff s, fun i h hbusy hidle henabled => ?_, fun es v hr hs ht hv hpending => ?_,
    fun es v hr hs ht hdone hovr => ?_⟩
  · have hc := completes_of_exec h
    obtain ⟨-, -, -, -, -, hirqEn, -⟩ := hc.frame
    exact irq_of_done (hc.done_pending hbusy hidle) (by rwa [hirqEn])
  · obtain ⟨e, hstep, he⟩ := (interruptRegisterWrites s v es hr).1 hs
    cases ht.symm.trans hstep
    exact irq_of_done hpending ((he 0).trans hv)
  · obtain ⟨p, hstep, hp⟩ := (interruptRegisterWrites s v es hr).2 hs
    cases ht.symm.trans hstep
    refine irq_of_cleared ((hp 0).trans ?_) ((hp 1).trans ?_)
    · rw [hdone]
      exact Bool.and_false _
    · rw [hovr]
      exact Bool.and_false _

/-! ## ILLEGAL_COMMAND -/

/-- A word that is not legal does not decode (R92). -/
theorem decode_of_not_legal {c : Word} (h : ¬ Legal c) : ∃ e, decode c = .error e := by
  cases hd : decode c with
  | ok i => exact absurd ((decodeAcceptsExactlyLegalWords c).mp ⟨i, hd⟩) h
  | error e => exact ⟨e, rfl⟩

/-- The turn of such a word is the error alone: no operand is read (R154). -/
theorem commandTurn_of_not_legal {s : State} (h : ¬ Legal s.cmd) : commandTurn s = .next (failed s 0x00000306) := by
  obtain ⟨e, hd⟩ := decode_of_not_legal h
  rw [commandTurn, hd]

/-- Settles O10: the step is the command's turn, and the word does not decode. -/
theorem illegalWordEndsWithIllegalCommand : Obligations.IllegalWordEndsWithIllegalCommand := by
  intro s es hr hbusy hillegal hs
  rw [step_of_event hs, applyEvent, engineTurn_eq_commandTurn (s := setSchedule es s) hr hbusy]
  exact commandTurn_of_not_legal (s := setSchedule es s) hillegal

end Sys2Proof.Machine
end

section
/-! PROOFS of the family 70_reset_and_hazards: transfers during reset. -/

namespace Sys2Proof.Machine

/-- In reset a transfer is its answer and nothing else, whatever the target (R177). -/
theorem step_transfer_inReset {s : State} {t : Transfer} {es : List Event} (hr : s.rstN = false)
    (hs : s.schedule = .transfer t :: es) :
    step s = .next (served s es (responseOf t (setSchedule es s))) := by
  rw [step_transfer hs, busTransfer, effectOf_inReset (s := setSchedule es s) hr]
  rfl

theorem responseOf_read_inReset {s : State} (hr : s.rstN = false) (off : Offset) :
    responseOf (.read off) s = .readData off 0 := by
  rw [responseOf, hr, if_neg Bool.false_ne_true]

theorem responseOf_write_inReset {s : State} (hr : s.rstN = false) (off : Offset) (v : Word) (strb : BitVec 4) :
    responseOf (.write off v strb) s = .resetWrite off := by
  rw [responseOf, hr, if_neg Bool.false_ne_true]

/-- Settles O35: `rst_n` alone decides the answer, before the offset and the strobes are looked at. -/
theorem transfersDuringReset : Obligations.TransfersDuringReset := by
  intro s off v strb es hr
  refine ⟨fun hs => ?_, fun hs => ?_, fun p hp => ?_⟩
  · rw [step_transfer_inReset hr hs, responseOf_read_inReset (s := setSchedule es s) hr]
  · rw [step_transfer_inReset hr hs, responseOf_write_inReset (s := setSchedule es s) hr]
  · obtain rfl | rfl := List.mem_pair.mp hp
    · exact ⟨rfl, rfl⟩
    · exact ⟨rfl, rfl⟩

end Sys2Proof.Machine
end
